-- ==== Sys2Proof/Word.lean ====
section
/-! DEFINITION. The word and byte types of the TinyJAMBU CORE (00_scope.md section 5: a word is 32 bits, a byte 8 bits). -/

namespace Sys2Proof

/-- A byte of a byte string or of MEM (00_scope.md section 5). -/
abbrev Byte := BitVec 8

/-- A 32-bit word; bit 0 is the least significant (00_scope.md section 5). -/
abbrev Word := BitVec 32

end Sys2Proof
end

