-- ==== Sys2Proof/Config.lean ====
section
/-! DEFINITION. What is fixed when the hardware is built (the size of MEM and the round-count table) and the two
values the spec leaves free. The values of the profiles stand in Machine/Profiles.lean. -/

namespace Sys2Proof

/-- The three key-size variants (R2): 128-, 192- and 256-bit keys. -/
inductive KeySize where
  | k128
  | k192
  | k256
  deriving DecidableEq, Repr

/-- One column of the round-count table `RC` (00_scope.md R6), in rounds of 128 steps. -/
structure RoundCounts where
  /-- `R_INIT`: setup, the key-only initialisation. -/
  init : Nat
  /-- `R_NONCE`: setup, each of the three nonce words. -/
  nonce : Nat
  /-- `R_AD`: each group of associated data. -/
  ad : Nat
  /-- `R_MSG`: each group of an AEAD message. -/
  msg : Nat
  /-- `R_TAG1`: the first tag word. -/
  tag1 : Nat
  /-- `R_TAG2`: the second tag word. -/
  tag2 : Nat
  /-- `R_SIV_AUTH`: each group of the plaintext in SIV pass 1. -/
  sivAuth : Nat
  /-- `R_SIV_KS`: each keystream word of SIV pass 2. -/
  sivKs : Nat
  /-- `R_HASH`: each block-cipher call of the hash. -/
  hash : Nat
  deriving DecidableEq, Repr

/-- The round-count table `RC` (R6): a column for each key size. -/
structure RoundTable where
  k128 : RoundCounts
  k192 : RoundCounts
  k256 : RoundCounts
  deriving DecidableEq, Repr

/-- What is fixed when the hardware is built and not readable (R6, R7, 60_exceptions.md R314): `MEM_SIZE` and `RC`.
No step changes it (log 2). -/
structure Config where
  /-- `MEM_SIZE`, the number of bytes of MEM (R7). -/
  memSize : Nat
  /-- `RC` (R6). -/
  rc : RoundTable
  deriving DecidableEq, Repr

/-- R7: `1 ≤ MEM_SIZE ≤ 2^32`. -/
abbrev Config.WellFormed (c : Config) : Prop := 1 ≤ c.memSize ∧ c.memSize ≤ 2 ^ 32

/-- FREE VALUE (20_memory.md R72, 93_implementation_defined.md U3; log 3): what the byte of MEM at an address holds from
power-up until it is first written. It has no body: a claim holds whatever the bytes are. -/
opaque Config.powerUpByte : Nat → Byte

/-- FREE VALUE (DESIGN CHOICE, log 6): what the 32-bit register OUT_LEN holds after a command whose output is `n ≥ 2^32`
bytes long, which R33 asks for and the register cannot hold. -/
opaque Config.outLenTooLong : Nat → Word

end Sys2Proof
end

