-- ==== Sys2Proof/Syntax.lean ====
section
/-! DEFINITION. The commands of the TinyJAMBU CORE: one constructor per row of spec/opcode_table.json (30_encoding.md R95). -/

namespace Sys2Proof

/-- A command. The only immediate of the machine is the round count of `PERM` (R93); every other operand is an operand
register (R96). It is a number; that it fits its field is well-formedness (log 17). -/
inductive Instr where
  /-- `NOP` (R250). -/
  | nop
  /-- `CLEAN` (R251). -/
  | clean
  /-- `PERM.128` (R252). -/
  | perm128 (rounds : Nat)
  /-- `PERM.192` (R252). -/
  | perm192 (rounds : Nat)
  /-- `PERM.256` (R252). -/
  | perm256 (rounds : Nat)
  /-- `AEAD_ENC.128` (R188). -/
  | aeadEnc128
  /-- `AEAD_ENC.192` (R188). -/
  | aeadEnc192
  /-- `AEAD_ENC.256` (R188). -/
  | aeadEnc256
  /-- `AEAD_DEC.128` (R189). -/
  | aeadDec128
  /-- `AEAD_DEC.192` (R189). -/
  | aeadDec192
  /-- `AEAD_DEC.256` (R189). -/
  | aeadDec256
  /-- `SIV_ENC.128` (R215). -/
  | sivEnc128
  /-- `SIV_ENC.192` (R215). -/
  | sivEnc192
  /-- `SIV_ENC.256` (R215). -/
  | sivEnc256
  /-- `SIV_DEC.128` (R216). -/
  | sivDec128
  /-- `SIV_DEC.192` (R216). -/
  | sivDec192
  /-- `SIV_DEC.256` (R216). -/
  | sivDec256
  /-- `HASH_INIT` (R237). -/
  | hashInit
  /-- `HASH_UPDATE` (R238). -/
  | hashUpdate
  /-- `HASH_FINAL` (R239). -/
  | hashFinal
  /-- `HASH` (R240). -/
  | hash
  deriving DecidableEq, Repr

end Sys2Proof
end

