-- ==== Sys2Proof/WellFormed.lean ====
section
/-! DEFINITION. Which commands an encoding can express: the round count of `PERM` is a 16-bit number (30_encoding.md R93). -/

namespace Sys2Proof

/-- The round count fits `ROUNDS = c[31:16]` (R93: 0 to 65535). -/
abbrev Instr.roundsFit (rounds : Nat) : Bool := rounds < 65536

/-- A command is well formed iff its immediate fits its field; only `PERM` has one (R93). -/
def Instr.wellFormed : Instr → Bool
  | .nop => true
  | .clean => true
  | .perm128 rounds => Instr.roundsFit rounds
  | .perm192 rounds => Instr.roundsFit rounds
  | .perm256 rounds => Instr.roundsFit rounds
  | .aeadEnc128 => true
  | .aeadEnc192 => true
  | .aeadEnc256 => true
  | .aeadDec128 => true
  | .aeadDec192 => true
  | .aeadDec256 => true
  | .sivEnc128 => true
  | .sivEnc192 => true
  | .sivEnc256 => true
  | .sivDec128 => true
  | .sivDec192 => true
  | .sivDec256 => true
  | .hashInit => true
  | .hashUpdate => true
  | .hashFinal => true
  | .hash => true

end Sys2Proof
end

