-- ==== Sys2Proof/Decode.lean ====
section
/-! DEFINITION. Decoding a command word and encoding a command (30_encoding.md R90 to R98). The decoder reads the four
fields of format C; the table of R95 with its masks stands beside it, for claims that the two agree. -/

namespace Sys2Proof

/-- `OP = c[7:0]` (R91). -/
def opField (c : Word) : Nat := (c.extractLsb' 0 8).toNat

/-- `KS = c[9:8]` (R92). -/
def ksField (c : Word) : Nat := (c.extractLsb' 8 2).toNat

/-- `RSV = c[15:10]` (R94). -/
def rsvField (c : Word) : Nat := (c.extractLsb' 10 6).toNat

/-- `ROUNDS = c[31:16]` (R93). -/
def roundsField (c : Word) : Nat := (c.extractLsb' 16 16).toNat

/-- Why a command word is illegal (R97). Each is an encoding the spec reserves; the machine answers all of them with
`CMD_ERR` (R301), so naming the reason is for the reader only. -/
inductive DecodeReject where
  /-- `OP` is not one of the eleven values of R95. -/
  | undefinedOperation
  /-- `RSV ≠ 0`. -/
  | reservedBitsSet
  /-- `KS = 3` on a keyed command. -/
  | reservedKeySize
  /-- `KS ≠ 0` on a command that takes no key. -/
  | keySizeOnKeylessCommand
  /-- `ROUNDS ≠ 0` on a command other than `PERM`. -/
  | roundsOnOtherCommand
  deriving DecidableEq, Repr

/-- A command that takes no key: `KS` and `ROUNDS` must be 0 (R92, R93). -/
def decodeKeyless (c : Word) (i : Instr) : Except DecodeReject Instr :=
  if ksField c ≠ 0 then .error .keySizeOnKeylessCommand
  else if roundsField c ≠ 0 then .error .roundsOnOtherCommand
  else .ok i

/-- The key size that `KS` selects (R92). -/
def decodeKeySize (c : Word) : Except DecodeReject KeySize :=
  match ksField c with
  | 0 => .ok .k128
  | 1 => .ok .k192
  | 2 => .ok .k256
  | _ => .error .reservedKeySize

/-- A mode command: `KS` selects one of three commands and `ROUNDS` must be 0 (R92, R93). -/
def decodeMode (c : Word) (i128 i192 i256 : Instr) : Except DecodeReject Instr :=
  match decodeKeySize c with
  | .error e => .error e
  | .ok ks =>
    if roundsField c ≠ 0 then .error .roundsOnOtherCommand
    else
      match ks with
      | .k128 => .ok i128
      | .k192 => .ok i192
      | .k256 => .ok i256

/-- `PERM`: `KS` selects the key size and `ROUNDS` is the operand (R93). -/
def decodePerm (c : Word) : Except DecodeReject Instr :=
  match decodeKeySize c with
  | .error e => .error e
  | .ok .k128 => .ok (.perm128 (roundsField c))
  | .ok .k192 => .ok (.perm192 (roundsField c))
  | .ok .k256 => .ok (.perm256 (roundsField c))

/-- The decoder, total on command words (R95, R97, R98). -/
def decode (c : Word) : Except DecodeReject Instr :=
  if rsvField c ≠ 0 then .error .reservedBitsSet
  else
    match opField c with
    | 0x00 => decodeKeyless c .nop
    | 0x01 => decodeKeyless c .clean
    | 0x02 => decodePerm c
    | 0x10 => decodeMode c .aeadEnc128 .aeadEnc192 .aeadEnc256
    | 0x11 => decodeMode c .aeadDec128 .aeadDec192 .aeadDec256
    | 0x12 => decodeMode c .sivEnc128 .sivEnc192 .sivEnc256
    | 0x13 => decodeMode c .sivDec128 .sivDec192 .sivDec256
    | 0x20 => decodeKeyless c .hashInit
    | 0x21 => decodeKeyless c .hashUpdate
    | 0x22 => decodeKeyless c .hashFinal
    | 0x23 => decodeKeyless c .hash
    | _ => .error .undefinedOperation

/-- The word of an `nbits`-bit instruction `w`, every bit above `nbits` 0. A command is one 32-bit word (R90, R99), so there
is no order of words or bytes to lay out. -/
def commandWord (nbits w : Nat) : Word := BitVec.ofNat 32 (w % 2 ^ nbits)

/-- What the decoder reads from an instruction whose bits are `w`; none where it refuses. -/
def decodeTableWord (nbits w : Nat) : Option Instr :=
  match decode (commandWord nbits w) with
  | .ok i => some i
  | .error _ => none

/-- `OP | KS << 8 | ROUNDS << 16` (R95). -/
def commandOf (op ks rounds : Nat) : Word := BitVec.ofNat 32 (op + ks * 256 + rounds * 65536)

/-- The encoder (R95): the command word of a well-formed command. -/
def encode : Instr → Word
  | .nop => commandOf 0x00 0 0
  | .clean => commandOf 0x01 0 0
  | .perm128 rounds => commandOf 0x02 0 rounds
  | .perm192 rounds => commandOf 0x02 1 rounds
  | .perm256 rounds => commandOf 0x02 2 rounds
  | .aeadEnc128 => commandOf 0x10 0 0
  | .aeadEnc192 => commandOf 0x10 1 0
  | .aeadEnc256 => commandOf 0x10 2 0
  | .aeadDec128 => commandOf 0x11 0 0
  | .aeadDec192 => commandOf 0x11 1 0
  | .aeadDec256 => commandOf 0x11 2 0
  | .sivEnc128 => commandOf 0x12 0 0
  | .sivEnc192 => commandOf 0x12 1 0
  | .sivEnc256 => commandOf 0x12 2 0
  | .sivDec128 => commandOf 0x13 0 0
  | .sivDec192 => commandOf 0x13 1 0
  | .sivDec256 => commandOf 0x13 2 0
  | .hashInit => commandOf 0x20 0 0
  | .hashUpdate => commandOf 0x21 0 0
  | .hashFinal => commandOf 0x22 0 0
  | .hash => commandOf 0x23 0 0

/-- A row of the opcode table (R95): a word belongs to it iff `c & mask = pattern`. -/
structure OpcodeRow where
  pattern : Word
  mask : Word
  deriving DecidableEq, Repr

/-- A row whose command has no immediate: every bit is fixed. -/
def fixedRow (pattern : Word) : OpcodeRow := ⟨pattern, 0xffffffff⟩

/-- A row of `PERM`: `ROUNDS` is any value. -/
def permRow (pattern : Word) : OpcodeRow := ⟨pattern, 0x0000ffff⟩

/-- The 21 rows of the opcode table, in its order (R95). -/
def opcodeTable : List OpcodeRow :=
  [fixedRow 0x00000000, fixedRow 0x00000001] ++
  [permRow 0x00000002, permRow 0x00000102, permRow 0x00000202] ++
  [fixedRow 0x00000010, fixedRow 0x00000110, fixedRow 0x00000210] ++
  [fixedRow 0x00000011, fixedRow 0x00000111, fixedRow 0x00000211] ++
  [fixedRow 0x00000012, fixedRow 0x00000112, fixedRow 0x00000212] ++
  [fixedRow 0x00000013, fixedRow 0x00000113, fixedRow 0x00000213] ++
  [fixedRow 0x00000020, fixedRow 0x00000021, fixedRow 0x00000022, fixedRow 0x00000023]

/-- Whether a word belongs to a row (R95: `(c & mask) == match`). -/
def OpcodeRow.covers (r : OpcodeRow) (c : Word) : Bool := (c &&& r.mask) == r.pattern

end Sys2Proof
end

