-- ==== Sys2Proof/Machine/Profiles.lean ====
section
/-! DEFINITION. The round-count profiles `DOC`, `V1` and `V2` of 00_scope.md R6, and the column of a key size. -/

namespace Sys2Proof.Machine

/-- The column of `RC` for a key size (R6). -/
def roundsFor (rc : RoundTable) : KeySize → RoundCounts
  | .k128 => rc.k128
  | .k192 => rc.k192
  | .k256 => rc.k256

/-- A column whose full rate is `full` and whose short rates are `nonce`, `ad` and `tag2` (R6): `R_INIT`, `R_MSG`, `R_TAG1`
and `R_SIV_KS` are the full rate, `R_SIV_AUTH = R_AD` (92 D15), `R_HASH` is 20 at every key size. -/
def roundsColumn (full nonce ad tag2 : Nat) : RoundCounts :=
  { init := full, nonce := nonce, ad := ad, msg := full, tag1 := full, tag2 := tag2, sivAuth := ad, sivKs := full, hash := 20 }

/-- The profile `DOC`, the default (R6, 92 D25). -/
def profileDoc : RoundTable :=
  { k128 := roundsColumn 8 3 5 3, k192 := roundsColumn 9 3 5 3, k256 := roundsColumn 10 3 5 3 }

/-- The profile `V1` (R6): every short rate is 3 rounds. -/
def profileV1 : RoundTable :=
  { k128 := roundsColumn 8 3 3 3, k192 := roundsColumn 9 3 3 3, k256 := roundsColumn 10 3 3 3 }

/-- The profile `V2` (R6): every short rate is 5 rounds. -/
def profileV2 : RoundTable :=
  { k128 := roundsColumn 8 5 5 5, k192 := roundsColumn 9 5 5 5, k256 := roundsColumn 10 5 5 5 }

/-- The size of MEM at `State.reset`: DESIGN CHOICE (log 2); R7 leaves it a parameter, and 95_test_vectors.md part 3 runs its
programs with 1024. -/
def defaultMemSize : Nat := 1024

/-- The configuration at `State.reset` (log 2): the default profile of R6 and `defaultMemSize`. -/
def defaultConfig : Config := { memSize := defaultMemSize, rc := profileDoc }

end Sys2Proof.Machine
end

