-- ==== Sys2Proof/Machine/State.lean ====
section
/-! DEFINITION. The state of the TinyJAMBU CORE (10_state.md), the moves of its Host (20_memory.md section 7), the reasons a
step can stop, and the state after reset (10_state.md R45). -/

namespace Sys2Proof.Machine

/-- Four 32-bit registers: `S[0..3]` (R20), `HL[0..3]` or `HR[0..3]` (R26). -/
structure Quad where
  w0 : Word
  w1 : Word
  w2 : Word
  w3 : Word
  deriving DecidableEq, Repr

/-- `K[0..7]`, the inverted key schedule (R22). -/
structure KeyRegs where
  k0 : Word
  k1 : Word
  k2 : Word
  k3 : Word
  k4 : Word
  k5 : Word
  k6 : Word
  k7 : Word
  deriving DecidableEq, Repr

/-- `T[0..1]`, the squeezed tag words (R24). -/
structure TagRegs where
  t0 : Word
  t1 : Word
  deriving DecidableEq, Repr

/-- `N2[0..2]`, the derived nonce of SIV pass 2 (R25). -/
structure NonceRegs where
  n0 : Word
  n1 : Word
  n2 : Word
  deriving DecidableEq, Repr

/-- The datapath registers that hold nothing between commands (R20 to R25). -/
structure Datapath where
  /-- `S[0..3]` (R20). -/
  s : Quad
  /-- `K[0..7]` (R22). -/
  k : KeyRegs
  /-- `KW`, how many schedule words are in use: 0, 4, 6 or 8 (R22). -/
  kw : Nat
  /-- `T[0..1]` (R24). -/
  t : TagRegs
  /-- `N2[0..2]` (R25). -/
  n2 : NonceRegs
  deriving DecidableEq, Repr

/-- The hash registers, which persist while `HASH_ACTIVE` (R26, R27). -/
structure HashRegs where
  /-- `HL[0..3]`, the half `L` of the chaining value (R26). -/
  hl : Quad
  /-- `HR[0..3]`, the half `R` of the chaining value (R26). -/
  hr : Quad
  /-- `HBUF[0..15]`, the pending block (R27). -/
  hbuf : Vector Byte 16
  /-- `HPOS`, the byte position counter (R27: 0 to 15 between commands). -/
  hpos : Nat
  deriving DecidableEq, Repr

/-- The seven operand registers (R32); only the Host writes them. -/
structure Operands where
  keyAddr : Word
  nonceAddr : Word
  adAddr : Word
  adLen : Word
  inAddr : Word
  inLen : Word
  outAddr : Word
  deriving DecidableEq, Repr

/-- The error of the last completed command, `STATUS.ERR` (R31, 60_exceptions.md R300). -/
inductive Err where
  /-- Code 0, `NONE`. -/
  | none
  /-- Code 1, `CMD_ERR` (R301). -/
  | cmdErr
  /-- Code 2, `SEQ_ERR` (R302). -/
  | seqErr
  /-- Code 3, `LEN_ERR` (R303). -/
  | lenErr
  /-- Code 4, `ADDR_ERR` (R304). -/
  | addrErr
  /-- Code 5, `AUTH_FAIL` (R305). -/
  | authFail
  deriving DecidableEq, Repr

/-- `PHASE` (R40 to R43). -/
inductive Phase where
  | idle
  | check
  | init
  | absorbAd
  | process
  | finalize
  | authPass
  | tag
  | rekey
  | streamPass
  | run
  deriving DecidableEq, Repr

/-- The width of a Host register access; only 32-bit accesses are part of the interface (R34). -/
inductive AccessWidth where
  | byte
  | half
  | word
  deriving DecidableEq, Repr

/-- A move of the Host, or of the platform that asserts RESET (00_scope.md R8, 30_encoding.md R100, 70 R340). -/
inductive Move where
  /-- `WR`: a register write at a byte offset (R34). -/
  | regWrite (width : AccessWidth) (offset : Nat) (value : Word)
  /-- `RD`: a register read at a byte offset (R34). -/
  | regRead (width : AccessWidth) (offset : Nat)
  /-- `MEMW`: bytes written to MEM from an address on (R100). -/
  | memWrite (addr : Nat) (bytes : List Byte)
  /-- `MEMR`: `n` bytes read from MEM (R100). -/
  | memRead (addr n : Nat)
  /-- `WAIT`: poll `STATUS` until `BUSY` reads 0 (R100). -/
  | wait
  /-- `RESET` (R340). -/
  | reset
  deriving DecidableEq, Repr

/-- What a read of the Host returned. -/
inductive Reply where
  /-- A register read: its offset and the value. -/
  | reg (offset : Nat) (value : Word)
  /-- A read of MEM: its address and the bytes, the byte at that address first. -/
  | mem (addr : Nat) (bytes : List Byte)
  deriving DecidableEq, Repr

/-- MEM as the list of the bytes written since power-up, addresses strictly rising (20_memory.md R60, R72; log 3). -/
abbrev Memory := List Host.Cell

/-- The state of the machine: the registers of the Core (10_state.md), its buffer memory, its build parameters, and the
Host's side of the interface. -/
structure State where
  /-- `MEM_SIZE` and `RC`: fixed at build time, no step changes them (R6, R7; log 2). -/
  config : Config
  /-- `S`, `K`, `KW`, `T`, `N2`. -/
  dp : Datapath
  /-- `HL`, `HR`, `HBUF`, `HPOS`. -/
  hash : HashRegs
  /-- `HASH_ACTIVE`, read as `STATUS[2]` (R28). -/
  hashActive : Bool
  /-- `STATUS.BUSY` (R31). -/
  busy : Bool
  /-- `STATUS.DONE` (R31). -/
  done : Bool
  /-- `STATUS.ERR` (R31). -/
  err : Err
  /-- `PHASE` (R40). -/
  phase : Phase
  /-- `CMD`, the last accepted command word (R30). -/
  cmd : Word
  /-- The operand registers (R32). -/
  ops : Operands
  /-- `OUT_LEN` (R33). -/
  outLen : Word
  /-- `MEM` (20_memory.md R60). -/
  mem : Memory
  /-- The model's own: the moves of Host and platform still to come, in the order they take effect (log 4). -/
  schedule : List Move
  /-- The model's own: what the Host's reads have returned, the oldest first (log 4). -/
  replies : List Reply
  deriving DecidableEq, Repr

/-- Why the machine stops with a fault. No command faults (60_exceptions.md R312). -/
inductive Fault where
  /-- Raised by a Host read or write of MEM that names an address at or above `MEM_SIZE`, which does not exist (R60; log 8).
  Safe: the model stops where the spec gives no behaviour. -/
  | noSuchAddress
  deriving DecidableEq, Repr

/-- Why the machine refuses to go on. No command is refused (60_exceptions.md R312). -/
inductive Refusal where
  /-- A command that has no meaning yet; raised by an arm of exec only. Safe. -/
  | notModelled (mnemonic : String)
  /-- Raised by a Host read or write of MEM while `BUSY = 1`, a move the model does not give the Host (R76, 93 U2; log 7).
  Unsafe in U2's sense: it assumes Hosts are well behaved. -/
  | hostMemoryWhileBusy
  /-- Raised by a Host register access that is narrower than 32 bits or not at a multiple of 4 (R34, 93 U4; log 9). Safe. -/
  | registerAccessShape
  deriving DecidableEq, Repr

/-- What a step answers. -/
abbrev Result := Host.Outcome State Fault Refusal

/-- Four registers at 0. -/
def Quad.zero : Quad := ⟨0, 0, 0, 0⟩

/-- `S`, `K`, `KW`, `T`, `N2` at 0: their reset values (R45) and their values between commands (R351). -/
def Datapath.zero : Datapath :=
  { s := Quad.zero, k := ⟨0, 0, 0, 0, 0, 0, 0, 0⟩, kw := 0, t := ⟨0, 0⟩, n2 := ⟨0, 0, 0⟩ }

/-- `HL`, `HR`, `HBUF`, `HPOS` at 0: their reset values (R45) and their values while `HASH_ACTIVE = 0` (R28). -/
def HashRegs.zero : HashRegs :=
  { hl := Quad.zero, hr := Quad.zero, hbuf := Vector.replicate 16 0, hpos := 0 }

/-- The operand registers at 0 (R45). -/
def Operands.zero : Operands := ⟨0, 0, 0, 0, 0, 0, 0⟩

/-- The machine at power-up, after reset (R45, R341), for a configuration: every register at 0, `PHASE = IDLE`, nothing known of
MEM, no move to come. -/
def State.resetWith (c : Config) : State :=
  { config := c, dp := Datapath.zero, hash := HashRegs.zero, hashActive := false, busy := false, done := false,
    err := .none, phase := .idle, cmd := 0, ops := Operands.zero, outLen := 0, mem := [], schedule := [], replies := [] }

/-- The machine right after reset (R45, R341), with the configuration of log 2. -/
def State.reset : State := State.resetWith defaultConfig

end Sys2Proof.Machine
end

