-- ==== Sys2Proof/Machine/Bytes.lean ====
section
/-! DEFINITION. Byte strings and words: the little-endian loads and stores of 20_memory.md R61 to R64. -/

namespace Sys2Proof.Machine

/-- `b[i]` (00_scope.md section 5). Beyond the end, where no rule reads, it is 0 (log 10). -/
def byteAt (b : List Byte) (i : Nat) : Byte := b.getD i 0

/-- `le32(b, o)` (R62). -/
def le32 (b : List Byte) (o : Nat) : Word :=
  (byteAt b o).setWidth 32 ||| (byteAt b (o + 1)).setWidth 32 <<< 8 |||
    (byteAt b (o + 2)).setWidth 32 <<< 16 ||| (byteAt b (o + 3)).setWidth 32 <<< 24

/-- `lepart(b, o, r)` (R63): the `r` bytes from `o` on, little-endian, zero-extended. -/
def lepart (b : List Byte) (o : Nat) : Nat → Word
  | 0 => 0
  | r + 1 => lepart b o r ||| (byteAt b (o + r)).setWidth 32 <<< (8 * r)

/-- `bytes32(w)` (R64). -/
def bytes32 (w : Word) : List Byte :=
  [w.extractLsb' 0 8, w.extractLsb' 8 8, w.extractLsb' 16 8, w.extractLsb' 24 8]

/-- `lowbytes(w, r)` (R64). -/
def lowbytes (w : Word) (r : Nat) : List Byte := (bytes32 w).take r

/-- The bytes of four registers, the first register's first (R26, R231). -/
def quadBytes (q : Quad) : List Byte := bytes32 q.w0 ++ bytes32 q.w1 ++ bytes32 q.w2 ++ bytes32 q.w3

/-- Four registers loaded from 16 bytes (R231, R252). -/
def quadOfBytes (b : List Byte) : Quad := ⟨le32 b 0, le32 b 4, le32 b 8, le32 b 12⟩

/-- `0^n`, `n` zero bytes (00_scope.md section 5). -/
def zeroBytes (n : Nat) : List Byte := List.replicate n 0

/-- Bytewise XOR of two strings of one length (44_hash.md R232). -/
def xorBytes (a b : List Byte) : List Byte := List.zipWith (· ^^^ ·) a b

end Sys2Proof.Machine
end

