-- ==== Sys2Proof/Machine/Ops.lean ====
section
/-! DEFINITION. The named operations over MEM and the registers: reading and writing MEM (20_memory.md R66 to R68), accepting a
command (10_state.md R30), its epilogue (45_system_commands.md R254), raising an error (60_exceptions.md R306) and the reset
event (70_reset_and_hazards.md R340). -/

namespace Sys2Proof.Machine

/-! ### MEM -/

/-- The byte last written at an address, none where nothing has been written since power-up. -/
def memGet : Memory → Nat → Option Byte
  | [], _ => none
  | (k, v) :: rest, a => if k = a then some v else memGet rest a

/-- The byte at an address; where nothing has been written it is the free value of log 3 (R72, 93 U3). -/
def memByte (m : Memory) (a : Nat) : Byte := (memGet m a).getD (Config.powerUpByte a)

/-- Write one byte, keeping the addresses strictly rising. -/
def memPut : Memory → Nat → Byte → Memory
  | [], a, v => [(a, v)]
  | (k, w) :: rest, a, v =>
    if a < k then (a, v) :: (k, w) :: rest
    else if a = k then (a, v) :: rest
    else (k, w) :: memPut rest a v

/-- `MemRead(addr, n)` (R66). -/
def memRead (m : Memory) (a : Nat) : Nat → List Byte
  | 0 => []
  | n + 1 => memByte m a :: memRead m (a + 1) n

/-- `MemWrite(addr, n, v)` with `n` the length of `v` (R67). -/
def memWrite (m : Memory) (a : Nat) : List Byte → Memory
  | [] => m
  | v :: vs => memWrite (memPut m a v) (a + 1) vs

/-- The canonical form of MEM: addresses strictly rising. An unlisted address reads as "not written", which no entry is. -/
def Memory.wf : Memory → Bool
  | [] => true
  | [_] => true
  | (a, _) :: (b, w) :: rest => decide (a < b) && Memory.wf ((b, w) :: rest)

/-- A region of MEM: an address and a length, natural numbers (R68). -/
structure Region where
  addr : Nat
  len : Nat
  deriving DecidableEq, Repr

/-- Whether a region is valid (R68): it is empty, or it ends inside MEM; the sum does not wrap. -/
def regionValid (c : Config) (r : Region) : Bool := decide (r.len = 0) || decide (r.addr + r.len ≤ c.memSize)

/-- Prologue step 5 (45_system_commands.md R253): whether every region of a command is valid. -/
def regionsValid (s : State) (rs : List Region) : Bool := rs.all (regionValid s.config)

/-- Prologue step 6: the snapshot of an input region (R70). -/
def snapshot (s : State) (r : Region) : List Byte := memRead s.mem r.addr r.len

/-- The write-back of a command's output (R70). -/
def writeBack (s : State) (a : Nat) (bytes : List Byte) : State := { s with mem := memWrite s.mem a bytes }

/-! ### Accepting, ending and failing a command -/

/-- A command word is accepted (R30): `CMD <- c`, `BUSY <- 1`, `DONE <- 0`, `ERR <- 0`, and `PHASE` goes from `IDLE` to `CHECK`
(R41; that it does so at acceptance is DEDUCED, log 15). -/
def acceptCommand (c : Word) (s : State) : State :=
  { s with cmd := c, busy := true, done := false, err := .none, phase := .check }

/-- The number of output bytes as `OUT_LEN` holds it (R33). A number that needs more than 32 bits is log 6's free value. -/
def outLenWord (n : Nat) : Word := if n < 2 ^ 32 then BitVec.ofNat 32 n else Config.outLenTooLong n

/-- The epilogue of every command (R254), with the error it ends with and the number of its valid output bytes. -/
def epilogue (e : Err) (n : Nat) (s : State) : State :=
  { s with
    dp := Datapath.zero
    err := e
    outLen := if e = .none then outLenWord n else 0
    done := true
    busy := false
    phase := .idle }

/-- `raise E` (R306), which takes the exception: no more of the body runs, the epilogue runs with the error's code and
`OUT_LEN <- 0`. The zero-fill of `AUTH_FAIL`, its only memory effect, is done by the command before it (R305). There is no handler,
no saved register and no return (R309). -/
def raise (e : Err) (s : State) : State := epilogue e 0 s

/-- A command ends normally with `n` valid output bytes (R33, R254). -/
def complete (n : Nat) (s : State) : State := epilogue .none n s

/-- The reset event (R340 to R342): every register takes its reset value; MEM and the build parameters stay. The moves still to
come and the replies are the Host's, not the Core's, and stay (log 4). -/
def resetEvent (s : State) : State :=
  { State.resetWith s.config with mem := s.mem, schedule := s.schedule, replies := s.replies }

end Sys2Proof.Machine
end

