-- ==== Sys2Proof/Machine/Operands.lean ====
section
/-! DEFINITION. The operands of the commands: which operand registers a command reads and the regions they name
(30_encoding.md R96). Every address and length is a natural number (20_memory.md R68). -/

namespace Sys2Proof.Machine

/-- `KW`, the number of key words of a key size (R92). -/
def keyWords : KeySize → Nat
  | .k128 => 4
  | .k192 => 6
  | .k256 => 8

/-- The key: `4·KW` bytes at `KEY_ADDR`. -/
def keyRegion (ks : KeySize) (s : State) : Region := ⟨s.ops.keyAddr.toNat, 4 * keyWords ks⟩

/-- The nonce: 12 bytes at `NONCE_ADDR`. -/
def nonceRegion (s : State) : Region := ⟨s.ops.nonceAddr.toNat, 12⟩

/-- The associated data: `AD_LEN` bytes at `AD_ADDR`. -/
def adRegion (s : State) : Region := ⟨s.ops.adAddr.toNat, s.ops.adLen.toNat⟩

/-- The input: `IN_LEN` bytes at `IN_ADDR`. -/
def inRegion (s : State) : Region := ⟨s.ops.inAddr.toNat, s.ops.inLen.toNat⟩

/-- The input state of `PERM`: 16 bytes at `IN_ADDR`, whatever `IN_LEN` holds. -/
def permInRegion (s : State) : Region := ⟨s.ops.inAddr.toNat, 16⟩

/-- An output of `n` bytes at `OUT_ADDR`. -/
def outRegion (n : Nat) (s : State) : Region := ⟨s.ops.outAddr.toNat, n⟩

/-- The regions of `PERM.ks` (R252). -/
def permRegions (ks : KeySize) (s : State) : List Region := [keyRegion ks s, permInRegion s, outRegion 16 s]

/-- The regions of a mode command whose output is `n` bytes (R188, R189). -/
def modeRegions (ks : KeySize) (n : Nat) (s : State) : List Region :=
  [keyRegion ks s, nonceRegion s, adRegion s, inRegion s, outRegion n s]

end Sys2Proof.Machine
end

