-- ==== Sys2Proof/Machine/Permutation.lean ====
section
/-! DEFINITION. The permutation (40_permutation.md): the key schedule, the batched definition `steps32`, `round128`, `permute`
(the datapath), the bit-serial definition (the specification oracle) and the inverse. -/

namespace Sys2Proof.Machine

/-! ### The key schedule -/

/-- `K[i] = ~le32(key, 4·i)` for `i < KW`, 0 above (R132). -/
def scheduleWord (key : List Byte) (kw i : Nat) : Word := if i < kw then ~~~(le32 key (4 * i)) else 0

/-- The registers `K[0..7]` after `key_schedule(key)` (R132), with `KW = len(key) / 4`. -/
def keySchedule (key : List Byte) : KeyRegs :=
  let w := scheduleWord key (key.length / 4)
  ⟨w 0, w 1, w 2, w 3, w 4, w 5, w 6, w 7⟩

/-- `K[i]` (R22). There is no register above `K[7]`; the value there is never used (log 10). -/
def keyWord (k : KeyRegs) : Nat → Word
  | 0 => k.k0
  | 1 => k.k1
  | 2 => k.k2
  | 3 => k.k3
  | 4 => k.k4
  | 5 => k.k5
  | 6 => k.k6
  | 7 => k.k7
  | _ => 0

/-! ### The batched definition, the datapath -/

/-- `(a >> n) | (b << (32 - n))`: a 32-bit window at bit `n` of the two words `b ‖ a` (R124). -/
def funnel (a b : Word) (n : Nat) : Word := (a >>> n) ||| (b <<< (32 - n))

/-- The word that 32 steps feed back (R124), from the four old words and an inverted key word. -/
def feedback32 (s : Quad) (kw : Word) : Word :=
  s.w0 ^^^ funnel s.w1 s.w2 15 ^^^ (funnel s.w2 s.w3 6 &&& funnel s.w2 s.w3 21) ^^^ funnel s.w2 s.w3 27 ^^^ kw

/-- `steps32(S, kw)` (R124). -/
def steps32 (s : Quad) (kw : Word) : Quad := ⟨s.w1, s.w2, s.w3, feedback32 s kw⟩

/-- `round128(S, K, KW, j)` (R126): four `steps32` with the key words `j` to `j + 3`, cyclically. -/
def round128 (k : KeyRegs) (kw j : Nat) (s : Quad) : Quad :=
  let word := fun m => keyWord k ((j + m) % kw)
  steps32 (steps32 (steps32 (steps32 s (word 0)) (word 1)) (word 2)) (word 3)

/-- `rounds` rounds, the first of them starting at key word `j` (R129). -/
def permuteFrom (k : KeyRegs) (kw : Nat) : Nat → Nat → Quad → Quad
  | 0, _, s => s
  | r + 1, j, s => permuteFrom k kw r (j + 4) (round128 k kw j s)

/-- `TINYJAMBU_ROUNDS(steps)` (R101, R138): `steps / 128`, defined only for a multiple of 128. -/
def roundsOfSteps (steps : Nat) : Option Nat := if steps % 128 = 0 then some (steps / 128) else none

/-- `permute(S, K, KW, rounds)` (R129); the key index starts at 0 in every call (R128). -/
def permute (s : Quad) (k : KeyRegs) (kw rounds : Nat) : Quad := permuteFrom k kw rounds 0 s

/-! ### The bit-serial definition, the specification oracle -/

/-- The 128-bit view `B[i] = S[i div 32][i mod 32]` (00_scope.md section 5, R121). -/
def stateBits (s : Quad) : BitVec 128 := s.w3 ++ s.w2 ++ s.w1 ++ s.w0

/-- The four words of a 128-bit view. -/
def bitsState (b : BitVec 128) : Quad :=
  ⟨b.extractLsb' 0 32, b.extractLsb' 32 32, b.extractLsb' 64 32, b.extractLsb' 96 32⟩

/-- The feedback bit of one step (R122), from a raw key bit. -/
def serialFeedback (b : BitVec 128) (kb : Bool) : Bool :=
  b.getLsbD 0 ^^ b.getLsbD 47 ^^ (true ^^ (b.getLsbD 70 && b.getLsbD 85)) ^^ b.getLsbD 91 ^^ kb

/-- `step(B, kb)` (R122): the register moves down by one bit and the feedback enters at bit 127. -/
def serialStep (b : BitVec 128) (kb : Bool) : BitVec 128 := BitVec.cons (serialFeedback b kb) (b.extractLsb' 1 127)

/-- `rawkey[j mod (32·KW)]`, the raw key bit of step `j` (R123), from the inverted schedule. -/
def rawKeyBit (k : KeyRegs) (kw j : Nat) : Bool :=
  let n := j % (32 * kw)
  !(keyWord k (n / 32)).getLsbD (n % 32)

/-- `n` serial steps, the first of them numbered `j` (R123). -/
def serialSteps (k : KeyRegs) (kw : Nat) : Nat → Nat → BitVec 128 → BitVec 128
  | 0, _, b => b
  | n + 1, j, b => serialSteps k kw n (j + 1) (serialStep b (rawKeyBit k kw j))

/-- `permute` by the serial definition (R129): `128·rounds` steps. -/
def permuteSerial (s : Quad) (k : KeyRegs) (kw rounds : Nat) : Quad :=
  bitsState (serialSteps k kw (128 * rounds) 0 (stateBits s))

/-! ### Inverses and the wide view (laws, not commands) -/

/-- The inverse of one serial step (R134). -/
def serialStepInverse (b : BitVec 128) (kb : Bool) : BitVec 128 :=
  let b0 := b.getLsbD 127 ^^ b.getLsbD 46 ^^ (true ^^ (b.getLsbD 69 && b.getLsbD 84)) ^^ b.getLsbD 90 ^^ kb
  BitVec.append (b.extractLsb' 0 127) (BitVec.ofBool b0)

/-- The inverse of `steps32` (R134). -/
def steps32Inverse (s : Quad) (kw : Word) : Quad :=
  let a := s.w0; let b := s.w1; let c := s.w2
  ⟨s.w3 ^^^ funnel a b 15 ^^^ (funnel b c 6 &&& funnel b c 21) ^^^ funnel b c 27 ^^^ kw, a, b, c⟩

/-- `W0 = S[0] | S[1] << 32` and `W1 = S[2] | S[3] << 32`, the 64-bit organisation (R131). -/
def wideView (s : Quad) : BitVec 64 × BitVec 64 :=
  (s.w0.setWidth 64 ||| s.w1.setWidth 64 <<< 32, s.w2.setWidth 64 ||| s.w3.setWidth 64 <<< 32)

end Sys2Proof.Machine
end

