-- ==== Sys2Proof/Machine/Sponge.lean ====
section
/-! DEFINITION. The sponge protocol (41_sponge.md): its primitives, setup, absorb and tag generation, over the engine, which
is the datapath registers of one command. -/

namespace Sys2Proof.Machine

/-- The datapath registers while one command runs, with two ghosts that no register holds and nothing reads back: the rounds
performed so far (70_reset_and_hazards.md R354) and the phases entered so far (10_state.md R41 to R43); log 11. -/
structure Engine extends Datapath where
  /-- Ghost: rounds of 128 steps performed by this command (R354). -/
  work : Nat
  /-- Ghost: the values `PHASE` takes inside this command, the first first (R41 to R43). -/
  trail : List Phase
  deriving DecidableEq, Repr

/-- The engine as a command's body starts: the registers as they are, after the phase `CHECK` (R41 to R43, R253). -/
def startEngine (s : State) : Engine := { s.dp with work := 0, trail := [.check] }

/-- The registers a command leaves in the datapath, which its epilogue then clears (R254). -/
def withEngine (s : State) (e : Engine) : State := { s with dp := e.toDatapath }

/-- `PHASE` becomes `p` (R41 to R43). -/
def enterPhase (p : Phase) (e : Engine) : Engine := { e with trail := e.trail ++ [p] }

/-- `key_schedule(key)` into the registers (40_permutation.md R132): `K` and `KW`. -/
def loadKey (key : List Byte) (e : Engine) : Engine := { e with k := keySchedule key, kw := key.length / 4 }

/-- `S[i] <- le32(p, 4·i)` (R231, R252). -/
def loadState (p : List Byte) (e : Engine) : Engine := { e with s := quadOfBytes p }

/-- `permute(S, K, KW, rounds)` on the registers (R120): it writes `S` and nothing else. -/
def runPermute (rounds : Nat) (e : Engine) : Engine :=
  { e with s := permute e.s e.k e.kw rounds, work := e.work + rounds }

/-- `init_state()` (R150). -/
def initState (e : Engine) : Engine := { e with s := Quad.zero }

/-- `add_domain(d)` (R151): the byte enters `S[1]` at bit 0. -/
def addDomain (d : Byte) (e : Engine) : Engine := { e with s := { e.s with w1 := e.s.w1 ^^^ d.setWidth 32 } }

/-- `absorb_word(w)` (R152): the word enters `S[3]`. -/
def absorbWord (w : Word) (e : Engine) : Engine := { e with s := { e.s with w3 := e.s.w3 ^^^ w } }

/-- `squeeze_word()` (R153): `S[2]`. -/
def squeezeWord (e : Engine) : Word := e.s.w2

/-! ### Domain separators (R159) -/

/-- Nonce, AEAD. -/
def domNonce : Byte := 0x10
/-- Associated data. -/
def domAd : Byte := 0x30
/-- Plaintext and ciphertext. -/
def domMsg : Byte := 0x50
/-- Finalization. -/
def domFinal : Byte := 0x70
/-- SIV pass 1 nonce. -/
def domSivAuth : Byte := 0x90
/-- SIV pass 2 nonce. -/
def domSivStream : Byte := 0xB0
/-- SIV pass 2 ciphertext. -/
def domSivKs : Byte := 0xD0

/-- The secondary separator of a final group of `r` bytes (R159): 0x01, 0x02 or 0x03. -/
def secondaryDomain (r : Nat) : Byte := BitVec.ofNat 8 r

/-! ### Setup, absorb, tag -/

/-- One nonce word of `setup` (R154). -/
def setupNonceWord (rc : RoundCounts) (d : Byte) (w : Word) (e : Engine) : Engine :=
  absorbWord w (runPermute rc.nonce (addDomain d e))

/-- `setup(nonce, d)` (R154). -/
def setup (rc : RoundCounts) (nonce : List Byte) (d : Byte) (e : Engine) : Engine :=
  let e := runPermute rc.init (initState e)
  let e := setupNonceWord rc d (le32 nonce 0) e
  let e := setupNonceWord rc d (le32 nonce 4) e
  setupNonceWord rc d (le32 nonce 8) e

/-- `absorb_partial(tail, r, d, rounds)` (R156), `r` the length of `tail`. -/
def absorbPartial (d : Byte) (rounds : Nat) (tail : List Byte) (e : Engine) : Engine :=
  let e := runPermute rounds (addDomain d e)
  let e := absorbWord (lepart tail 0 tail.length) e
  addDomain (secondaryDomain tail.length) e

/-- `absorb(data, d, rounds)` (R155, R157): groups of 4 bytes in order, then a group of 1, 2 or 3 bytes if any are left. -/
def absorb (d : Byte) (rounds : Nat) : List Byte → Engine → Engine
  | b0 :: b1 :: b2 :: b3 :: rest, e =>
    absorb d rounds rest (absorbWord (le32 [b0, b1, b2, b3] 0) (runPermute rounds (addDomain d e)))
  | [], e => e
  | tail, e => absorbPartial d rounds tail e

/-- The tag `bytes32(T[0]) ‖ bytes32(T[1])` (R24, R158). -/
def tagBytes (e : Engine) : List Byte := bytes32 e.t.t0 ++ bytes32 e.t.t1

/-- `generate_tag()` (R158): the full-rate permutation, then the half-rate one. -/
def generateTag (rc : RoundCounts) (e : Engine) : Engine :=
  let e := runPermute rc.tag1 (addDomain domFinal e)
  let e := { e with t := { e.t with t0 := squeezeWord e } }
  let e := runPermute rc.tag2 (addDomain domFinal e)
  { e with t := { e.t with t1 := squeezeWord e } }

end Sys2Proof.Machine
end

