-- ==== Sys2Proof/Machine/Modes.lean ====
section
/-! DEFINITION. What the AEAD and SIV commands share: the result of a decryption, the comparison of tags (42_aead.md R186)
and the frames of the encrypting (R188) and the decrypting (R189) commands, which SIV takes over word for word (R215, R216). -/

namespace Sys2Proof.Machine

/-- What a decryption function returns (R183, R214). -/
inductive Decrypted where
  /-- The plaintext: the tags agree. -/
  | plaintext (pt : List Byte)
  /-- `LengthError`: the input is shorter than a tag. -/
  | lengthError
  /-- `AuthenticationFailure`: the tags differ. -/
  | authenticationFailure
  deriving DecidableEq, Repr

/-- `tag_equal(a, b)` (R186). -/
def tagEqual (a b : List Byte) : Bool := a == b

/-- An encryption function: round counts, key, nonce, associated data, plaintext to ciphertext ‖ tag. -/
abbrev EncryptFun := RoundCounts → List Byte → List Byte → List Byte → List Byte → Engine → List Byte × Engine

/-- A decryption function: round counts, key, nonce, associated data, ciphertext ‖ tag to a plaintext or an error. -/
abbrev DecryptFun := RoundCounts → List Byte → List Byte → List Byte → List Byte → Engine → Decrypted × Engine

/-- The body of a command that encrypts with `f` (R188, R215), on the snapshots of its inputs: the output and the engine. -/
def encryptRun (f : EncryptFun) (ks : KeySize) (s : State) : List Byte × Engine :=
  f (roundsFor s.config.rc ks) (snapshot s (keyRegion ks s)) (snapshot s (nonceRegion s)) (snapshot s (adRegion s))
    (snapshot s (inRegion s)) (startEngine s)

/-- How an encrypting command ends whose checks pass (R188): the output is written and `OUT_LEN <- IN_LEN + 8`. -/
def encryptEnd (r : List Byte × Engine) (s : State) : State :=
  complete (s.ops.inLen.toNat + 8) (writeBack (withEngine s r.2) s.ops.outAddr.toNat r.1)

/-- The command that encrypts with `f` (R188, R215). -/
def execEncrypting (f : EncryptFun) (ks : KeySize) (s : State) : Result :=
  if regionsValid s (modeRegions ks (s.ops.inLen.toNat + 8) s) then .next (encryptEnd (encryptRun f ks s) s)
  else .next (raise .addrErr s)

/-- The body of a command that decrypts with `f` (R189, R216). -/
def decryptRun (f : DecryptFun) (ks : KeySize) (s : State) : Decrypted × Engine :=
  f (roundsFor s.config.rc ks) (snapshot s (keyRegion ks s)) (snapshot s (nonceRegion s)) (snapshot s (adRegion s))
    (snapshot s (inRegion s)) (startEngine s)

/-- How a decrypting command ends whose checks pass (R189): the plaintext is written and `OUT_LEN <- IN_LEN - 8`; on a failed
authentication the output region is filled with zeros (R305). The third case cannot arise, since `IN_LEN ≥ 8` was checked. -/
def decryptEnd (r : Decrypted × Engine) (s : State) : State :=
  let n := s.ops.inLen.toNat - 8
  let s' := withEngine s r.2
  match r.1 with
  | .plaintext pt => complete n (writeBack s' s.ops.outAddr.toNat pt)
  | .authenticationFailure => raise .authFail (writeBack s' s.ops.outAddr.toNat (zeroBytes n))
  | .lengthError => raise .lenErr s'

/-- The command that decrypts with `f` (R189, R216): the length check comes before the region checks (R253, R307). -/
def execDecrypting (f : DecryptFun) (ks : KeySize) (s : State) : Result :=
  if s.ops.inLen.toNat < 8 then .next (raise .lenErr s)
  else if regionsValid s (modeRegions ks (s.ops.inLen.toNat - 8) s) then .next (decryptEnd (decryptRun f ks s) s)
  else .next (raise .addrErr s)

end Sys2Proof.Machine
end

