-- ==== Sys2Proof/Machine/Aead.lean ====
section
/-! DEFINITION. The AEAD mode (42_aead.md): the functions `aead_encrypt` and `aead_decrypt` and the six commands. -/

namespace Sys2Proof.Machine

/-- What every message group starts with (R181, R182, R184, R185): the domain 0x50 and the full-rate permutation. -/
def nextMsgBlock (rc : RoundCounts) (e : Engine) : Engine := runPermute rc.msg (addDomain domMsg e)

/-- `encrypt_word(p)` (R181). -/
def encryptWord (rc : RoundCounts) (p : Word) (e : Engine) : List Byte × Engine :=
  let e := absorbWord p (nextMsgBlock rc e)
  (bytes32 (p ^^^ squeezeWord e), e)

/-- `encrypt_partial(tail, r)` (R182), `r` the length of `tail`. -/
def encryptPartial (rc : RoundCounts) (tail : List Byte) (e : Engine) : List Byte × Engine :=
  let p := lepart tail 0 tail.length
  let e := addDomain (secondaryDomain tail.length) (absorbWord p (nextMsgBlock rc e))
  (lowbytes (p ^^^ squeezeWord e) tail.length, e)

/-- The groups of the plaintext in order (R180). -/
def encryptGroups (rc : RoundCounts) : List Byte → Engine → List Byte × Engine
  | b0 :: b1 :: b2 :: b3 :: rest, e =>
    let c := encryptWord rc (le32 [b0, b1, b2, b3] 0) e
    let cs := encryptGroups rc rest c.2
    (c.1 ++ cs.1, cs.2)
  | [], e => ([], e)
  | tail, e => encryptPartial rc tail e

/-- `decrypt_word(c)` (R184): the recovered plaintext is absorbed. -/
def decryptWord (rc : RoundCounts) (c : Word) (e : Engine) : List Byte × Engine :=
  let e := nextMsgBlock rc e
  let p := c ^^^ squeezeWord e
  (bytes32 p, absorbWord p e)

/-- `2^(8r) - 1` (R185). -/
def groupMask (r : Nat) : Word := BitVec.ofNat 32 (2 ^ (8 * r) - 1)

/-- `decrypt_partial(tail, r)` (R185), `r` the length of `tail`: the plaintext is masked to the group's bytes before it is
absorbed. -/
def decryptPartial (rc : RoundCounts) (tail : List Byte) (e : Engine) : List Byte × Engine :=
  let e := nextMsgBlock rc e
  let p := (lepart tail 0 tail.length ^^^ squeezeWord e) &&& groupMask tail.length
  (lowbytes p tail.length, addDomain (secondaryDomain tail.length) (absorbWord p e))

/-- The groups of the ciphertext in order (R183). -/
def decryptGroups (rc : RoundCounts) : List Byte → Engine → List Byte × Engine
  | b0 :: b1 :: b2 :: b3 :: rest, e =>
    let p := decryptWord rc (le32 [b0, b1, b2, b3] 0) e
    let ps := decryptGroups rc rest p.2
    (p.1 ++ ps.1, ps.2)
  | [], e => ([], e)
  | tail, e => decryptPartial rc tail e

/-- What both functions do before the message (R180, R183): `INIT` and `ABSORB_AD`, then the phase `PROCESS` (R41). -/
def aeadStart (rc : RoundCounts) (key nonce ad : List Byte) (e : Engine) : Engine :=
  let e := setup rc nonce domNonce (loadKey key (enterPhase .init e))
  enterPhase .process (absorb domAd rc.ad ad (enterPhase .absorbAd e))

/-- `aead_encrypt(key, nonce, ad, pt) -> ct ‖ tag` (R180). -/
def aeadEncrypt : EncryptFun := fun rc key nonce ad pt e =>
  let c := encryptGroups rc pt (aeadStart rc key nonce ad e)
  let e := generateTag rc (enterPhase .finalize c.2)
  (c.1 ++ tagBytes e, e)

/-- `aead_decrypt(key, nonce, ad, ctt) -> pt | LengthError | AuthenticationFailure` (R183). -/
def aeadDecrypt : DecryptFun := fun rc key nonce ad ctt e =>
  if ctt.length < 8 then (.lengthError, e)
  else
    let mlen := ctt.length - 8
    let p := decryptGroups rc (ctt.take mlen) (aeadStart rc key nonce ad e)
    let e := generateTag rc (enterPhase .finalize p.2)
    (if tagEqual (tagBytes e) (ctt.drop mlen) then .plaintext p.1 else .authenticationFailure, e)

/-- `AEAD_ENC.128` (R188). -/
def execAeadEnc128 (s : State) : Result := execEncrypting aeadEncrypt .k128 s

/-- `AEAD_ENC.192` (R188). -/
def execAeadEnc192 (s : State) : Result := execEncrypting aeadEncrypt .k192 s

/-- `AEAD_ENC.256` (R188). -/
def execAeadEnc256 (s : State) : Result := execEncrypting aeadEncrypt .k256 s

/-- `AEAD_DEC.128` (R189). -/
def execAeadDec128 (s : State) : Result := execDecrypting aeadDecrypt .k128 s

/-- `AEAD_DEC.192` (R189). -/
def execAeadDec192 (s : State) : Result := execDecrypting aeadDecrypt .k192 s

/-- `AEAD_DEC.256` (R189). -/
def execAeadDec256 (s : State) : Result := execDecrypting aeadDecrypt .k256 s

end Sys2Proof.Machine
end

