-- ==== Sys2Proof/Machine/Hash.lean ====
section
/-! DEFINITION. The hash (44_hash.md): the block-cipher call, the compression function, the incremental functions and the four
commands. The functions act on the hash registers and the engine together, because `K` is the hash's key slot (10_state.md R29). -/

namespace Sys2Proof.Machine

/-- `R_HASH` (R6): `Encrypt` is always the 256-bit-key permutation (R231), so its column is read
(DEDUCED, log 13). -/
def hashRounds (c : Config) : Nat := c.rc.k256.hash

/-- `Encrypt(Kslot, P)` (R231). -/
def hashEncrypt (rounds : Nat) (kslot p : List Byte) (e : Engine) : List Byte × Engine :=
  let e := runPermute rounds (loadState p (loadKey kslot e))
  (quadBytes e.s, e)

/-- The 16-byte string `c, 00, ..., 00` (R232). -/
def e0 (c : Byte) : List Byte := c :: zeroBytes 15

/-- `compress(block, dom)` (R232): both halves are computed from the old `L` and the old `R`. -/
def compress (rounds : Nat) (block : List Byte) (dom : Byte) (h : HashRegs) (e : Engine) : HashRegs × Engine :=
  let kslot := quadBytes h.hr ++ block
  let x := xorBytes (quadBytes h.hl) (e0 dom)
  let y := xorBytes x (e0 1)
  let l := hashEncrypt rounds kslot x e
  let r := hashEncrypt rounds kslot y l.2
  ({ h with hl := quadOfBytes (xorBytes l.1 x), hr := quadOfBytes (xorBytes r.1 y) }, r.2)

/-- One byte of `hash_update` (R234): a block is compressed as soon as its sixteenth byte arrives. -/
def hashByte (rounds : Nat) (p : HashRegs × Engine) (b : Byte) : HashRegs × Engine :=
  let h := { p.1 with hbuf := p.1.hbuf.setIfInBounds p.1.hpos b, hpos := p.1.hpos + 1 }
  if h.hpos = 16 then
    let q := compress rounds h.hbuf.toList 0 h p.2
    ({ q.1 with hbuf := Vector.replicate 16 0, hpos := 0 }, q.2)
  else (h, p.2)

/-- `hash_update(data)` (R234). -/
def hashUpdate (rounds : Nat) (data : List Byte) (p : HashRegs × Engine) : HashRegs × Engine :=
  data.foldl (hashByte rounds) p

/-- The final block (R235): the pending bytes, one byte 0x01, zeros up to 16 bytes. -/
def finalBlock (h : HashRegs) : List Byte := h.hbuf.toList.take h.hpos ++ 1 :: zeroBytes (15 - h.hpos)

/-- `hash_finalize() -> digest` (R235): the digest and the engine; the hash registers are zero afterwards. -/
def hashFinalize (rounds : Nat) (p : HashRegs × Engine) : List Byte × HashRegs × Engine :=
  let q := compress rounds (finalBlock p.1) 2 p.1 p.2
  (quadBytes q.1.hl ++ quadBytes q.1.hr, HashRegs.zero, q.2)

/-- `hash(msg)` (R236): `hash_init`, `hash_update`, `hash_finalize`. -/
def hashMessage (rounds : Nat) (msg : List Byte) (e : Engine) : List Byte × HashRegs × Engine :=
  hashFinalize rounds (hashUpdate rounds msg (HashRegs.zero, e))

/-- The engine of a hash command: the phase `RUN` (R43). -/
def startHash (s : State) : Engine := enterPhase .run (startEngine s)

/-- The body of `HASH_UPDATE` (R238), on the snapshot of its input: the hash registers and the engine. -/
def hashUpdateRun (s : State) : HashRegs × Engine :=
  hashUpdate (hashRounds s.config) (snapshot s (inRegion s)) (s.hash, startHash s)

/-- How `HASH_UPDATE` ends when its checks pass (R238). -/
def hashUpdateEnd (p : HashRegs × Engine) (s : State) : State := complete 0 (withEngine { s with hash := p.1 } p.2)

/-- How a command ends that produced a digest (R239, R240): it is written, the stream is closed and `OUT_LEN <- 32`. -/
def digestEnd (p : List Byte × HashRegs × Engine) (s : State) : State :=
  complete 32 (writeBack (withEngine { s with hash := p.2.1, hashActive := false } p.2.2) s.ops.outAddr.toNat p.1)

/-- `HASH_INIT` (R237). -/
def execHashInit (s : State) : Result := .next (complete 0 { s with hash := HashRegs.zero, hashActive := true })

/-- `HASH_UPDATE` (R238). -/
def execHashUpdate (s : State) : Result :=
  if !s.hashActive then .next (raise .seqErr s)
  else if regionsValid s [inRegion s] then .next (hashUpdateEnd (hashUpdateRun s) s)
  else .next (raise .addrErr s)

/-- `HASH_FINAL` (R239). -/
def execHashFinal (s : State) : Result :=
  if !s.hashActive then .next (raise .seqErr s)
  else if regionsValid s [outRegion 32 s] then
    .next (digestEnd (hashFinalize (hashRounds s.config) (s.hash, startHash s)) s)
  else .next (raise .addrErr s)

/-- `HASH` (R240). -/
def execHash (s : State) : Result :=
  if regionsValid s [inRegion s, outRegion 32 s] then
    .next (digestEnd (hashMessage (hashRounds s.config) (snapshot s (inRegion s)) (startHash s)) s)
  else .next (raise .addrErr s)

end Sys2Proof.Machine
end

