-- ==== Sys2Proof/Machine/Siv.lean ====
section
/-! DEFINITION. The SIV mode (43_siv.md): its two passes, the functions `siv_encrypt` and `siv_decrypt` and the six commands. -/

namespace Sys2Proof.Machine

/-- `siv_auth(nonce, ad, pt)` (R210), pass 1: the tag is left in `T`. Phases `AUTH_PASS` and `TAG` (R42). -/
def sivAuth (rc : RoundCounts) (nonce ad pt : List Byte) (e : Engine) : Engine :=
  let e := setup rc nonce domSivAuth (enterPhase .authPass e)
  let e := absorb domAd rc.ad ad e
  let e := absorb domMsg rc.sivAuth pt e
  generateTag rc (enterPhase .tag e)

/-- The derived nonce into `N2` (R211): `nonce[0..4) ‖ tag`. Phase `REKEY` (R42). -/
def sivRekey (nonce tag : List Byte) (e : Engine) : Engine :=
  { enterPhase .rekey e with n2 := ⟨le32 nonce 0, le32 tag 0, le32 tag 4⟩ }

/-- The 12 bytes of the derived nonce (R25, R211). -/
def nonce2Bytes (e : Engine) : List Byte := bytes32 e.n2.n0 ++ bytes32 e.n2.n1 ++ bytes32 e.n2.n2

/-- What every group of pass 2 starts with (R212): the domain 0xD0 and `R_SIV_KS` rounds. -/
def nextSivBlock (rc : RoundCounts) (e : Engine) : Engine := runPermute rc.sivKs (addDomain domSivKs e)

/-- The groups of `siv_stream` in order (R212): keystream XOR, nothing is absorbed. -/
def streamGroups (rc : RoundCounts) : List Byte → Engine → List Byte × Engine
  | b0 :: b1 :: b2 :: b3 :: rest, e =>
    let e := nextSivBlock rc e
    let cs := streamGroups rc rest e
    (bytes32 (le32 [b0, b1, b2, b3] 0 ^^^ squeezeWord e) ++ cs.1, cs.2)
  | [], e => ([], e)
  | tail, e =>
    let e := nextSivBlock rc e
    (lowbytes (lepart tail 0 tail.length ^^^ squeezeWord e) tail.length, e)

/-- `siv_stream(nonce2, data)` (R212), pass 2, with the derived nonce in `N2`: `setup` belongs to the phase `REKEY` (R42). -/
def sivStream (rc : RoundCounts) (data : List Byte) (e : Engine) : List Byte × Engine :=
  streamGroups rc data (enterPhase .streamPass (setup rc (nonce2Bytes e) domSivStream e))

/-- `siv_encrypt(key, nonce, ad, pt) -> ct ‖ tag` (R213). -/
def sivEncrypt : EncryptFun := fun rc key nonce ad pt e =>
  let e := sivAuth rc nonce ad pt (loadKey key e)
  let tag := tagBytes e
  let c := sivStream rc pt (sivRekey nonce tag e)
  (c.1 ++ tag, c.2)

/-- `siv_decrypt(key, nonce, ad, ctt) -> pt | LengthError | AuthenticationFailure` (R214): decrypt with the supplied tag first,
then authenticate the recovered plaintext. -/
def sivDecrypt : DecryptFun := fun rc key nonce ad ctt e =>
  if ctt.length < 8 then (.lengthError, e)
  else
    let mlen := ctt.length - 8
    let tagIn := ctt.drop mlen
    let p := sivStream rc (ctt.take mlen) (sivRekey nonce tagIn (loadKey key e))
    let e := sivAuth rc nonce ad p.1 p.2
    (if tagEqual (tagBytes e) tagIn then .plaintext p.1 else .authenticationFailure, e)

/-- `SIV_ENC.128` (R215). -/
def execSivEnc128 (s : State) : Result := execEncrypting sivEncrypt .k128 s

/-- `SIV_ENC.192` (R215). -/
def execSivEnc192 (s : State) : Result := execEncrypting sivEncrypt .k192 s

/-- `SIV_ENC.256` (R215). -/
def execSivEnc256 (s : State) : Result := execEncrypting sivEncrypt .k256 s

/-- `SIV_DEC.128` (R216). -/
def execSivDec128 (s : State) : Result := execDecrypting sivDecrypt .k128 s

/-- `SIV_DEC.192` (R216). -/
def execSivDec192 (s : State) : Result := execDecrypting sivDecrypt .k192 s

/-- `SIV_DEC.256` (R216). -/
def execSivDec256 (s : State) : Result := execDecrypting sivDecrypt .k256 s

end Sys2Proof.Machine
end

