-- ==== Sys2Proof/Machine/System.lean ====
section
/-! DEFINITION. The system commands `NOP`, `CLEAN` and `PERM` (45_system_commands.md R250 to R252), and what an illegal
command word does (60_exceptions.md R301). -/

namespace Sys2Proof.Machine

/-- An accepted word that is no row of the opcode table ends with `CMD_ERR` and changes nothing else (R97, R301). -/
def illegalCommand (s : State) : State := raise .cmdErr s

/-- `NOP` (R250). -/
def execNop (s : State) : Result := .next (complete 0 s)

/-- `CLEAN` (R251): the hash registers are zeroed, and the epilogue zeroes the rest of the datapath. -/
def execClean (s : State) : Result := .next (complete 0 { s with hash := HashRegs.zero, hashActive := false })

/-- The engine after the body of `PERM` (R252). -/
def permEngine (key p : List Byte) (rounds : Nat) (e : Engine) : Engine :=
  runPermute rounds (loadState p (loadKey key e))

/-- The engine after the body of a `PERM` command, on the snapshots of its inputs (R252). -/
def permRun (ks : KeySize) (rounds : Nat) (s : State) : Engine :=
  permEngine (snapshot s (keyRegion ks s)) (snapshot s (permInRegion s)) rounds (enterPhase .run (startEngine s))

/-- How `PERM` ends when its checks pass (R252): the state bytes are written and `OUT_LEN <- 16`. -/
def permEnd (e : Engine) (s : State) : State :=
  complete 16 (writeBack (withEngine s e) s.ops.outAddr.toNat (quadBytes e.s))

/-- `PERM.ks` (R252). -/
def execPerm (ks : KeySize) (rounds : Nat) (s : State) : Result :=
  if regionsValid s (permRegions ks s) then .next (permEnd (permRun ks rounds s) s) else .next (raise .addrErr s)

/-- `PERM.128` (R252). -/
def execPerm128 (rounds : Nat) (s : State) : Result := execPerm .k128 rounds s

/-- `PERM.192` (R252). -/
def execPerm192 (rounds : Nat) (s : State) : Result := execPerm .k192 rounds s

/-- `PERM.256` (R252). -/
def execPerm256 (rounds : Nat) (s : State) : Result := execPerm .k256 rounds s

end Sys2Proof.Machine
end

