-- ==== Sys2Proof/Machine/Dispatch.lean ====
section
/-! DEFINITION. The meaning of every command: one arm per constructor of Instr. -/

namespace Sys2Proof.Machine

def exec (i : Instr) (s : State) : Host.Outcome State Fault Refusal :=
  match i with
  | .nop => Sys2Proof.Machine.execNop s
  | .clean => Sys2Proof.Machine.execClean s
  | .perm128 rounds => Sys2Proof.Machine.execPerm128 rounds s
  | .perm192 rounds => Sys2Proof.Machine.execPerm192 rounds s
  | .perm256 rounds => Sys2Proof.Machine.execPerm256 rounds s
  | .aeadEnc128 => Sys2Proof.Machine.execAeadEnc128 s
  | .aeadEnc192 => Sys2Proof.Machine.execAeadEnc192 s
  | .aeadEnc256 => Sys2Proof.Machine.execAeadEnc256 s
  | .aeadDec128 => Sys2Proof.Machine.execAeadDec128 s
  | .aeadDec192 => Sys2Proof.Machine.execAeadDec192 s
  | .aeadDec256 => Sys2Proof.Machine.execAeadDec256 s
  | .sivEnc128 => Sys2Proof.Machine.execSivEnc128 s
  | .sivEnc192 => Sys2Proof.Machine.execSivEnc192 s
  | .sivEnc256 => Sys2Proof.Machine.execSivEnc256 s
  | .sivDec128 => Sys2Proof.Machine.execSivDec128 s
  | .sivDec192 => Sys2Proof.Machine.execSivDec192 s
  | .sivDec256 => Sys2Proof.Machine.execSivDec256 s
  | .hashInit => Sys2Proof.Machine.execHashInit s
  | .hashUpdate => Sys2Proof.Machine.execHashUpdate s
  | .hashFinal => Sys2Proof.Machine.execHashFinal s
  | .hash => Sys2Proof.Machine.execHash s

end Sys2Proof.Machine
end

