-- ==== Sys2Proof/Machine/Flags.lean ====
section
/-! DEFINITION. The flags: there are no arithmetic flags (10_state.md R35); the only flags are the fields of STATUS (R31). -/

namespace Sys2Proof.Machine

/-- The code of an error in `STATUS.ERR` (60_exceptions.md R300). -/
def errCode : Err → BitVec 4
  | .none => 0
  | .cmdErr => 1
  | .seqErr => 2
  | .lenErr => 3
  | .addrErr => 4
  | .authFail => 5

/-- A one-bit flag at a bit position of a word. -/
def flagAt (b : Bool) (n : Nat) : Word := (BitVec.ofBool b).setWidth 32 <<< n

/-- The word a Host read of `STATUS` returns (R31): `BUSY` at bit 0, `DONE` at bit 1, `HASH_ACTIVE` at bit 2, `ERR` at bits 11:8,
every other bit 0. -/
def statusWord (s : State) : Word :=
  flagAt s.busy 0 ||| flagAt s.done 1 ||| flagAt s.hashActive 2 ||| (errCode s.err).setWidth 32 <<< 8

end Sys2Proof.Machine
end

