-- ==== Sys2Proof/Machine/HostPort.lean ====
section
/-! DEFINITION. The Host's side of the machine (10_state.md R30 to R34, 20_memory.md R71 and R76): register reads and writes,
reads and writes of MEM, and the reset event. -/

namespace Sys2Proof.Machine

/-- What a register read at an offset returns (R34, R71); an offset that is not in the map reads 0
(offsets from 0x100 on: DEDUCED, log 14). -/
def regRead (offset : Nat) (s : State) : Word :=
  match offset with
  | 0x00 => s.cmd
  | 0x04 => statusWord s
  | 0x08 => s.ops.keyAddr
  | 0x0C => s.ops.nonceAddr
  | 0x10 => s.ops.adAddr
  | 0x14 => s.ops.adLen
  | 0x18 => s.ops.inAddr
  | 0x1C => s.ops.inLen
  | 0x20 => s.ops.outAddr
  | 0x24 => s.outLen
  | _ => 0

/-- What a register write does while `BUSY = 0` (R30, R32, R34, R71): a write of `CMD` is an accepted command; a write of a
read-only register or of an offset that is not in the map is ignored (offsets from 0x100 on: DEDUCED, log 14). -/
def regWriteIdle (offset : Nat) (v : Word) (s : State) : State :=
  match offset with
  | 0x00 => acceptCommand v s
  | 0x08 => { s with ops := { s.ops with keyAddr := v } }
  | 0x0C => { s with ops := { s.ops with nonceAddr := v } }
  | 0x10 => { s with ops := { s.ops with adAddr := v } }
  | 0x14 => { s with ops := { s.ops with adLen := v } }
  | 0x18 => { s with ops := { s.ops with inAddr := v } }
  | 0x1C => { s with ops := { s.ops with inLen := v } }
  | 0x20 => { s with ops := { s.ops with outAddr := v } }
  | _ => s

/-- A register write (R34): while `BUSY = 1` it is ignored. -/
def regWrite (offset : Nat) (v : Word) (s : State) : State := if s.busy then s else regWriteIdle offset v s

/-- Whether an access is one the register interface has: 32 bits, at a multiple of 4 (R34). -/
def registerShape (width : AccessWidth) (offset : Nat) : Bool := width == .word && offset % 4 == 0

/-- The Host receives a reply. -/
def giveReply (r : Reply) (s : State) : State := { s with replies := s.replies ++ [r] }

/-- A register write of the Host (R34, 93 U4). -/
def hostRegWrite (width : AccessWidth) (offset : Nat) (v : Word) (s : State) : Result :=
  if registerShape width offset then .next (regWrite offset v s) else .refused .registerAccessShape

/-- A register read of the Host (R34, 93 U4); it changes nothing in the Core (R69). -/
def hostRegRead (width : AccessWidth) (offset : Nat) (s : State) : Result :=
  if registerShape width offset then .next (giveReply (.reg offset (regRead offset s)) s)
  else .refused .registerAccessShape

/-- A Host write of MEM: only while `BUSY = 0` (R60, R76), only to addresses that exist (R60). -/
def hostMemWrite (a : Nat) (bytes : List Byte) (s : State) : Result :=
  if s.busy then .refused .hostMemoryWhileBusy
  else if regionValid s.config ⟨a, bytes.length⟩ then .next (writeBack s a bytes)
  else .fault .noSuchAddress

/-- A Host read of MEM: only while `BUSY = 0` (R60, R76), only of addresses that exist (R60). -/
def hostMemRead (a n : Nat) (s : State) : Result :=
  if s.busy then .refused .hostMemoryWhileBusy
  else if regionValid s.config ⟨a, n⟩ then .next (giveReply (.mem a (snapshot s ⟨a, n⟩)) s)
  else .fault .noSuchAddress

/-- One move, already taken off the schedule. A `WAIT` that comes here has read `BUSY = 0` (R100). -/
def hostMove (m : Move) (s : State) : Result :=
  match m with
  | .regWrite width offset v => hostRegWrite width offset v s
  | .regRead width offset => hostRegRead width offset s
  | .memWrite a bytes => hostMemWrite a bytes s
  | .memRead a n => hostMemRead a n s
  | .wait => .next s
  | .reset => .next (resetEvent s)

/-- Whose turn it is (log 4): the Core's when no move is to come, or when the Host waits on a busy Core; else the Host's. -/
def coresTurn (s : State) : Bool :=
  match s.schedule with
  | [] => true
  | .wait :: _ => s.busy
  | _ :: _ => false

/-- The Host's move: the first of the schedule is taken off it and made. -/
def hostTurn (s : State) : Result :=
  match s.schedule with
  | [] => .next s
  | m :: rest => hostMove m { s with schedule := rest }

end Sys2Proof.Machine
end

