-- ==== Sys2Proof/Machine/Step.lean ====
section
/-! DEFINITION. One step of the machine: a move of the Host, or one command executed whole by the Core (00_scope.md R8). -/

namespace Sys2Proof.Machine

/-- The Core's turn (R8, R40, R253): a busy Core decodes and executes the word in `CMD` as one atomic step; an idle Core waits. -/
def coreTurn (s : State) : Host.Outcome State Fault Refusal :=
  if s.busy then
    match decode s.cmd with
    | .ok i => exec i s
    | .error _ => .next (illegalCommand s)
  else .next s

/-- One step (log 4). -/
def step (s : State) : Host.Outcome State Fault Refusal :=
  if coresTurn s then coreTurn s else hostTurn s

/-- `s` with the command word accepted (R30) and the Host waiting for its completion, so that the very next step runs it. There is
no fetch from memory (R40, R77): the word stands in `CMD` (log 5). -/
def State.withFetchWord (s : State) (nbits w : Nat) : State :=
  { acceptCommand (commandWord nbits w) s with schedule := .wait :: s.schedule }

end Sys2Proof.Machine
end

