-- ==== Sys2Proof/Machine/Phases.lean ====
section
/-! DEFINITION. The transition tables of `PHASE` (10_state.md R41 to R43). A command is one atomic step (R8), so between steps
`PHASE` is `IDLE` or `CHECK` only; the values it takes inside a command are the engine's ghost trail (log 11). -/

namespace Sys2Proof.Machine

/-- The phases of an AEAD command (R41). -/
def aeadPhases : List Phase := [.check, .init, .absorbAd, .process, .finalize]

/-- The phases of `SIV_ENC` (R42). -/
def sivEncPhases : List Phase := [.check, .authPass, .tag, .rekey, .streamPass]

/-- The phases of `SIV_DEC` (R42): it decrypts before it verifies. -/
def sivDecPhases : List Phase := [.check, .rekey, .streamPass, .authPass, .tag]

/-- The phases of every other command (R43). -/
def runPhases : List Phase := [.check, .run]

/-- The phases a command passes through between `IDLE` and `IDLE`, when none of its checks fails (R41 to R43). -/
def commandPhases : Instr → List Phase
  | .nop => runPhases
  | .clean => runPhases
  | .perm128 _ => runPhases
  | .perm192 _ => runPhases
  | .perm256 _ => runPhases
  | .aeadEnc128 => aeadPhases
  | .aeadEnc192 => aeadPhases
  | .aeadEnc256 => aeadPhases
  | .aeadDec128 => aeadPhases
  | .aeadDec192 => aeadPhases
  | .aeadDec256 => aeadPhases
  | .sivEnc128 => sivEncPhases
  | .sivEnc192 => sivEncPhases
  | .sivEnc256 => sivEncPhases
  | .sivDec128 => sivDecPhases
  | .sivDec192 => sivDecPhases
  | .sivDec256 => sivDecPhases
  | .hashInit => runPhases
  | .hashUpdate => runPhases
  | .hashFinal => runPhases
  | .hash => runPhases

end Sys2Proof.Machine
end

