-- ==== Sys2Proof/Machine/Script.lean ====
section
/-! DEFINITION. Host programs as scripts (30_encoding.md R100, R101): the register names, and each script line as the moves it
stands for. -/

namespace Sys2Proof.Machine

/-- The ten registers (20_memory.md R71). -/
inductive Register where
  | cmd
  | status
  | keyAddr
  | nonceAddr
  | adAddr
  | adLen
  | inAddr
  | inLen
  | outAddr
  | outLen
  deriving DecidableEq, Repr

/-- The byte offset of a register (R71). -/
def registerOffset : Register → Nat
  | .cmd => 0x00
  | .status => 0x04
  | .keyAddr => 0x08
  | .nonceAddr => 0x0C
  | .adAddr => 0x10
  | .adLen => 0x14
  | .inAddr => 0x18
  | .inLen => 0x1C
  | .outAddr => 0x20
  | .outLen => 0x24

/-- The line `WR reg, value` (R100). -/
def lineWr (r : Register) (v : Word) : Move := .regWrite .word (registerOffset r) v

/-- The line `RD reg` (R100). -/
def lineRd (r : Register) : Move := .regRead .word (registerOffset r)

/-- The line `CMD mnemonic` (R100): a write of the command's word to `CMD`. -/
def lineCmd (i : Instr) : Move := lineWr .cmd (encode i)

/-- The pseudo-instruction `RUN x` (R101): `CMD x`, then `WAIT`. -/
def lineRun (i : Instr) : List Move := [lineCmd i, .wait]

end Sys2Proof.Machine
end

