-- ==== Sys2Proof/Machine/Work.lean ====
section
/-! DEFINITION. The work measure (70_reset_and_hazards.md R354): how many rounds of 128 steps each command performs. -/

namespace Sys2Proof.Machine

/-- `ceil(n/4)`, the number of groups of an `n`-byte string (R354). -/
def groupCount (n : Nat) : Nat := (n + 3) / 4

/-- The rounds of `setup` (R154, R354). -/
def setupWork (rc : RoundCounts) : Nat := rc.init + 3 * rc.nonce

/-- The rounds of an AEAD command on `adLen` bytes of associated data and an `mlen`-byte message (R354). -/
def aeadWork (rc : RoundCounts) (adLen mlen : Nat) : Nat :=
  setupWork rc + groupCount adLen * rc.ad + groupCount mlen * rc.msg + rc.tag1 + rc.tag2

/-- The rounds of a SIV command (R354). -/
def sivWork (rc : RoundCounts) (adLen mlen : Nat) : Nat :=
  2 * setupWork rc + groupCount adLen * rc.ad + groupCount mlen * (rc.sivAuth + rc.sivKs) + rc.tag1 + rc.tag2

/-- The rounds of `HASH_UPDATE` on `n` bytes at position `hpos` (R354). -/
def hashUpdateWork (hashRounds hpos n : Nat) : Nat := 2 * hashRounds * ((hpos + n) / 16)

/-- The rounds of `HASH_FINAL` (R354). -/
def hashFinalWork (hashRounds : Nat) : Nat := 2 * hashRounds

/-- The rounds of `HASH` on `n` bytes (R354). -/
def hashWork (hashRounds n : Nat) : Nat := 2 * hashRounds * (n / 16 + 1)

end Sys2Proof.Machine
end

