-- ==== Sys2Proof/Safety.lean ====
section
/-! DEFINITION. What claims call a good state and a good run: the invariants the spec states of the Core between steps
(10_state.md R22, R27, R28, R31, R40; 60_exceptions.md R312; 70_reset_and_hazards.md R351). -/

namespace Sys2Proof.Machine

/-- The unused tail of the pending block is zero (R27): `HBUF[HPOS..15] = 0`. -/
def HashRegs.tailZero (h : HashRegs) : Prop := ∀ i (_ : i < 16), h.hpos ≤ i → h.hbuf[i] = 0

/-- Every listed byte of MEM has an address that exists (R60). -/
def memInside (c : Config) (m : Memory) : Prop := ∀ cell ∈ m, cell.1 < c.memSize

/-- The invariant of the machine. -/
structure State.Inv (s : State) : Prop where
  /-- R40: `BUSY = 0` iff `PHASE = IDLE`. -/
  busyPhase : s.busy = false ↔ s.phase = .idle
  /-- R31: `BUSY` and `DONE` are never both 1. -/
  busyDone : ¬(s.busy = true ∧ s.done = true)
  /-- R31: an error code stands only while `DONE = 1`. -/
  errDone : s.err ≠ .none → s.done = true
  /-- R33: after an error `OUT_LEN` is 0. -/
  errOutLen : s.err ≠ .none → s.outLen = 0
  /-- R351: `BUSY = 0` implies `S = K = KW = T = N2 = 0`. -/
  idleZero : s.busy = false → s.dp = Datapath.zero
  /-- R22, R312: `KW` is 0, 4, 6 or 8. -/
  kwLegal : s.dp.kw = 0 ∨ s.dp.kw = 4 ∨ s.dp.kw = 6 ∨ s.dp.kw = 8
  /-- R27: `HPOS ≤ 15`. -/
  hposBound : s.hash.hpos ≤ 15
  /-- R27: `HBUF[HPOS..15] = 0`. -/
  hbufTail : s.hash.tailZero
  /-- R28, R351: `HASH_ACTIVE = 0` implies `HL = HR = 0`, `HBUF = 0`, `HPOS = 0`. -/
  inactiveZero : s.hashActive = false → s.hash = HashRegs.zero
  /-- The canonical form of MEM. -/
  memWf : Memory.wf s.mem = true
  /-- R60: MEM has no byte at or above `MEM_SIZE`. -/
  memInside : Sys2Proof.Machine.memInside s.config s.mem

/-- A state from which `n` steps run without a fault or a refusal. -/
def runsSafely : Nat → State → Bool
  | 0, _ => true
  | n + 1, s =>
    match step s with
    | .next t => runsSafely n t
    | .fault _ => false
    | .refused _ => false

end Sys2Proof.Machine
end

