-- ==== Sys2Proof/Certificates/Slice0/Obligations.lean ====
section
/-! DEFINITION. The statements for the provers. First the words they are said in, written from the rules and not from the
model's own operations wherever the two can differ; then the statements, one `def Obligations.<Name> : Prop` each. -/

namespace Sys2Proof.Claims

open Sys2Proof.Machine

/-! ### What a command reads -/

/-- R68: a region is valid iff it is empty or ends inside MEM, in the natural numbers. -/
abbrev Fits (s : State) (addr len : Nat) : Prop := len = 0 ∨ addr + len ≤ s.config.memSize

/-- R92: 16, 24 or 32 key bytes. -/
def keyBytes : KeySize → Nat
  | .k128 => 16
  | .k192 => 24
  | .k256 => 32

/-- R92: the value of `KS`. -/
def ksCode : KeySize → Nat
  | .k128 => 0
  | .k192 => 1
  | .k256 => 2

/-- The raw key a keyed command reads (R96). -/
def keyIn (ks : KeySize) (s : State) : List Byte := memRead s.mem s.ops.keyAddr.toNat (keyBytes ks)

/-- The nonce (R96). -/
def nonceIn (s : State) : List Byte := memRead s.mem s.ops.nonceAddr.toNat 12

/-- The associated data (R96). -/
def adIn (s : State) : List Byte := memRead s.mem s.ops.adAddr.toNat s.ops.adLen.toNat

/-- The input (R96). -/
def dataIn (s : State) : List Byte := memRead s.mem s.ops.inAddr.toNat s.ops.inLen.toNat

/-- The regions of a mode command with an `n`-byte output all fit (R188, R189). -/
abbrev ModeFits (ks : KeySize) (n : Nat) (s : State) : Prop :=
  Fits s s.ops.keyAddr.toNat (keyBytes ks) ∧ Fits s s.ops.nonceAddr.toNat 12 ∧
    Fits s s.ops.adAddr.toNat s.ops.adLen.toNat ∧ Fits s s.ops.inAddr.toNat s.ops.inLen.toNat ∧
    Fits s s.ops.outAddr.toNat n

/-- The regions of `PERM.ks` all fit (R252). -/
abbrev PermFits (ks : KeySize) (s : State) : Prop :=
  Fits s s.ops.keyAddr.toNat (keyBytes ks) ∧ Fits s s.ops.inAddr.toNat 16 ∧ Fits s s.ops.outAddr.toNat 16

/-- The commands of a family, by key size. -/
def permOf : KeySize → Nat → Instr
  | .k128 => .perm128
  | .k192 => .perm192
  | .k256 => .perm256

def aeadEncOf : KeySize → Instr
  | .k128 => .aeadEnc128
  | .k192 => .aeadEnc192
  | .k256 => .aeadEnc256

def aeadDecOf : KeySize → Instr
  | .k128 => .aeadDec128
  | .k192 => .aeadDec192
  | .k256 => .aeadDec256

def sivEncOf : KeySize → Instr
  | .k128 => .sivEnc128
  | .k192 => .sivEnc192
  | .k256 => .sivEnc256

def sivDecOf : KeySize → Instr
  | .k128 => .sivDec128
  | .k192 => .sivDec192
  | .k256 => .sivDec256

/-! ### What a command leaves -/

/-- How every command ends (R254): the datapath zero, the error code, `DONE`, not `BUSY`, `PHASE = IDLE`. -/
structure EndsWith (e : Err) (t : State) : Prop where
  dp : t.dp = Datapath.zero
  err : t.err = e
  done : t.done = true
  busy : t.busy = false
  phase : t.phase = .idle

/-- `OUT_LEN` holds the number `n` (R33). A number that 32 bits cannot hold is left free (log 6), so nothing is said of it. -/
def OutLenIs (n : Nat) (t : State) : Prop := n < 2 ^ 32 → t.outLen.toNat = n

/-- The build parameters, `CMD`, the operand registers and the Host's side are as before (R30, R32). -/
structure KeepsHost (s t : State) : Prop where
  config : t.config = s.config
  cmd : t.cmd = s.cmd
  ops : t.ops = s.ops
  schedule : t.schedule = s.schedule
  replies : t.replies = s.replies

/-- The hash registers are as before. -/
structure KeepsHash (s t : State) : Prop where
  hash : t.hash = s.hash
  active : t.hashActive = s.hashActive

/-- Every byte of MEM outside `n` bytes at `a` reads as before. -/
def MemKeptOutside (a n : Nat) (s t : State) : Prop :=
  ∀ x, x < a ∨ a + n ≤ x → memByte t.mem x = memByte s.mem x

/-- Every byte of MEM reads as before. -/
def MemKept (s t : State) : Prop := ∀ x, memByte t.mem x = memByte s.mem x

/-- How a decrypting command with an `n`-byte output at `out` ends, by the result of its function (R189, R305): the plaintext is
written, or the region is filled with zeros. -/
def DecryptEnds (r : Decrypted) (out n : Nat) (t : State) : Prop :=
  match r with
  | .plaintext pt => EndsWith .none t ∧ OutLenIs n t ∧ memRead t.mem out n = pt
  | .authenticationFailure => EndsWith .authFail t ∧ t.outLen = 0 ∧ memRead t.mem out n = List.replicate n 0
  | .lengthError => False

/-- The number of bytes a command writes at `OUT_ADDR` (R33, R96, R305), at most. -/
def outputBytes : Instr → State → Nat
  | .nop, _ => 0
  | .clean, _ => 0
  | .perm128 _, _ => 16
  | .perm192 _, _ => 16
  | .perm256 _, _ => 16
  | .aeadEnc128, s => s.ops.inLen.toNat + 8
  | .aeadEnc192, s => s.ops.inLen.toNat + 8
  | .aeadEnc256, s => s.ops.inLen.toNat + 8
  | .aeadDec128, s => s.ops.inLen.toNat - 8
  | .aeadDec192, s => s.ops.inLen.toNat - 8
  | .aeadDec256, s => s.ops.inLen.toNat - 8
  | .sivEnc128, s => s.ops.inLen.toNat + 8
  | .sivEnc192, s => s.ops.inLen.toNat + 8
  | .sivEnc256, s => s.ops.inLen.toNat + 8
  | .sivDec128, s => s.ops.inLen.toNat - 8
  | .sivDec192, s => s.ops.inLen.toNat - 8
  | .sivDec256, s => s.ops.inLen.toNat - 8
  | .hashInit, _ => 0
  | .hashUpdate, _ => 0
  | .hashFinal, _ => 32
  | .hash, _ => 32

/-- Whether a command is a hash command or `CLEAN`, the only ones that may touch the hash registers (R254). -/
def touchesHash : Instr → Bool
  | .clean | .hashInit | .hashUpdate | .hashFinal | .hash => true
  | .nop | .perm128 _ | .perm192 _ | .perm256 _ => false
  | .aeadEnc128 | .aeadEnc192 | .aeadEnc256 | .aeadDec128 | .aeadDec192 | .aeadDec256 => false
  | .sivEnc128 | .sivEnc192 | .sivEnc256 | .sivDec128 | .sivDec192 | .sivDec256 => false

/-- The key size of a keyed command (R92). -/
def keySizeOf : Instr → Option KeySize
  | .perm128 _ | .aeadEnc128 | .aeadDec128 | .sivEnc128 | .sivDec128 => some .k128
  | .perm192 _ | .aeadEnc192 | .aeadDec192 | .sivEnc192 | .sivDec192 => some .k192
  | .perm256 _ | .aeadEnc256 | .aeadDec256 | .sivEnc256 | .sivDec256 => some .k256
  | .nop | .clean | .hashInit | .hashUpdate | .hashFinal | .hash => none

/-- Which of the regions of R96 a command uses: nonce and associated data. -/
def isMode : Instr → Bool
  | .aeadEnc128 | .aeadEnc192 | .aeadEnc256 | .aeadDec128 | .aeadDec192 | .aeadDec256 => true
  | .sivEnc128 | .sivEnc192 | .sivEnc256 | .sivDec128 | .sivDec192 | .sivDec256 => true
  | .nop | .clean | .perm128 _ | .perm192 _ | .perm256 _ => false
  | .hashInit | .hashUpdate | .hashFinal | .hash => false

/-- The number of input bytes a command reads at `IN_ADDR` (R96); none where it reads no input. -/
def inputBytes (i : Instr) (s : State) : Option Nat :=
  match i with
  | .perm128 _ | .perm192 _ | .perm256 _ => some 16
  | .hashUpdate | .hash => some s.ops.inLen.toNat
  | _ => if isMode i then some s.ops.inLen.toNat else none

/-- The regions of a command are all valid (R96, R304). -/
def RegionsFit (i : Instr) (s : State) : Prop :=
  (∀ ks, keySizeOf i = some ks → Fits s s.ops.keyAddr.toNat (keyBytes ks)) ∧
    (isMode i = true → Fits s s.ops.nonceAddr.toNat 12 ∧ Fits s s.ops.adAddr.toNat s.ops.adLen.toNat) ∧
    (∀ n, inputBytes i s = some n → Fits s s.ops.inAddr.toNat n) ∧
    Fits s s.ops.outAddr.toNat (outputBytes i s)

/-- Whether a command decrypts (R253 step 4). -/
def decrypts : Instr → Bool
  | .aeadDec128 | .aeadDec192 | .aeadDec256 | .sivDec128 | .sivDec192 | .sivDec256 => true
  | .nop | .clean | .perm128 _ | .perm192 _ | .perm256 _ => false
  | .aeadEnc128 | .aeadEnc192 | .aeadEnc256 | .sivEnc128 | .sivEnc192 | .sivEnc256 => false
  | .hashInit | .hashUpdate | .hashFinal | .hash => false

/-- Whether a command needs an open hash stream (R253 step 3). -/
def needsStream (i : Instr) : Bool := i == .hashUpdate || i == .hashFinal

/-- What a command does when a check of its prologue fails with `e` (R302 to R304, R308): the error is recorded and nothing else
happens. -/
def OnlyReports (e : Err) (s t : State) : Prop :=
  EndsWith e t ∧ t.outLen = 0 ∧ t.mem = s.mem ∧ KeepsHash s t ∧ KeepsHost s t

/-- The operand registers a command reads, the others set to 0 (R96). -/
def readOperands (i : Instr) (o : Operands) : Operands :=
  match i with
  | .nop | .clean | .hashInit => ⟨0, 0, 0, 0, 0, 0, 0⟩
  | .perm128 _ | .perm192 _ | .perm256 _ => ⟨o.keyAddr, 0, 0, 0, o.inAddr, 0, o.outAddr⟩
  | .hashUpdate => ⟨0, 0, 0, 0, o.inAddr, o.inLen, 0⟩
  | .hashFinal => ⟨0, 0, 0, 0, 0, 0, o.outAddr⟩
  | .hash => ⟨0, 0, 0, 0, o.inAddr, o.inLen, o.outAddr⟩
  | _ => o

/-- R300: the codes of `STATUS.ERR`. -/
def statedErrCode : Err → Nat
  | .none => 0
  | .cmdErr => 1
  | .seqErr => 2
  | .lenErr => 3
  | .addrErr => 4
  | .authFail => 5

/-! ### The conditions of an illegal command word -/

/-- R97, read off the word as a number: some field breaks its rule. -/
def WordIllegal (c : Word) : Prop :=
  let op := c.toNat % 256
  let ks := c.toNat / 256 % 4
  let rsv := c.toNat / 1024 % 64
  let rounds := c.toNat / 65536
  op ∉ [0x00, 0x01, 0x02, 0x10, 0x11, 0x12, 0x13, 0x20, 0x21, 0x22, 0x23] ∨ rsv ≠ 0 ∨ ks = 3 ∨
    (ks ≠ 0 ∧ op ∈ [0x00, 0x01, 0x20, 0x21, 0x22, 0x23]) ∨ (rounds ≠ 0 ∧ op ≠ 0x02)

/-! ### The bit-serial reference

The cipher and the hash written over one 128-bit register `B` clocked a bit at a time (40_permutation.md R122), with raw key bits
taken from the key bytes (R123) and data taken by index. -/

/-- R123: bit `n mod 8` of key byte `n div 8`, `n = j mod (8·len)`. -/
def refKeyBit (key : List Byte) (j : Nat) : Bool :=
  let n := j % (8 * key.length)
  (byteAt key (n / 8)).getLsbD (n % 8)

/-- `128·rounds` steps from step 0 (R129). -/
def refPermute (key : List Byte) (rounds : Nat) (b : BitVec 128) : BitVec 128 :=
  (List.range (128 * rounds)).foldl (fun b j => serialStep b (refKeyBit key j)) b

/-- A domain byte enters at state bit 32 (R151). -/
def refDomain (d : Byte) (b : BitVec 128) : BitVec 128 := b ^^^ d.setWidth 128 <<< 32

/-- A data word enters at state bit 96 (R152). -/
def refAbsorb (w : Word) (b : BitVec 128) : BitVec 128 := b ^^^ w.setWidth 128 <<< 96

/-- A word is squeezed from state bit 64 on (R153). -/
def refSqueeze (b : BitVec 128) : Word := b.extractLsb' 64 32

/-- Group `i` of a string: up to 4 bytes (R155). -/
def refGroup (data : List Byte) (i : Nat) : List Byte := (data.drop (4 * i)).take 4

/-- A group as a little-endian number (R61). -/
def refWord (g : List Byte) : Word := BitVec.ofNat 32 (g.foldr (fun b n => b.toNat + 256 * n) 0)

/-- The secondary separator of a group, 0 for a full one (R156, R159). -/
def refSeparator (g : List Byte) : Byte := if g.length = 4 then 0 else BitVec.ofNat 8 g.length

/-- R154. -/
def refSetup (rc : RoundCounts) (key nonce : List Byte) (d : Byte) : BitVec 128 :=
  (List.range 3).foldl
    (fun b i => refAbsorb (refWord (refGroup nonce i)) (refPermute key rc.nonce (refDomain d b)))
    (refPermute key rc.init 0)

/-- R155, R156. -/
def refAbsorbData (key : List Byte) (d : Byte) (rounds : Nat) (data : List Byte) (b : BitVec 128) : BitVec 128 :=
  (List.range (groupCount data.length)).foldl
    (fun b i =>
      let g := refGroup data i
      refDomain (refSeparator g) (refAbsorb (refWord g) (refPermute key rounds (refDomain d b))))
    b

/-- R158: the tag. -/
def refTag (rc : RoundCounts) (key : List Byte) (b : BitVec 128) : List Byte :=
  let b1 := refPermute key rc.tag1 (refDomain 0x70 b)
  let b2 := refPermute key rc.tag2 (refDomain 0x70 b1)
  bytes32 (refSqueeze b1) ++ bytes32 (refSqueeze b2)

/-- A group enciphered under a keystream word (R181, R182). -/
def refCipher (g : List Byte) (ks : Word) : List Byte := (bytes32 (refWord g ^^^ ks)).take g.length

/-- R180: the ciphertext so far and the state, over the groups in order. -/
def refMessage (rc : RoundCounts) (key pt : List Byte) (b : BitVec 128) : List Byte × BitVec 128 :=
  (List.range (groupCount pt.length)).foldl
    (fun p i =>
      let g := refGroup pt i
      let b := refPermute key rc.msg (refDomain 0x50 p.2)
      (p.1 ++ refCipher g (refSqueeze b), refDomain (refSeparator g) (refAbsorb (refWord g) b)))
    ([], b)

/-- R180. -/
def refAead (rc : RoundCounts) (key nonce ad pt : List Byte) : List Byte :=
  let c := refMessage rc key pt (refAbsorbData key 0x30 rc.ad ad (refSetup rc key nonce 0x10))
  c.1 ++ refTag rc key c.2

/-- R210: the tag of SIV pass 1. -/
def refSivTag (rc : RoundCounts) (key nonce ad pt : List Byte) : List Byte :=
  refTag rc key (refAbsorbData key 0x50 rc.sivAuth pt (refAbsorbData key 0x30 rc.ad ad (refSetup rc key nonce 0x90)))

/-- R212: SIV pass 2. -/
def refSivStream (rc : RoundCounts) (key nonce2 data : List Byte) : List Byte :=
  ((List.range (groupCount data.length)).foldl
    (fun p i =>
      let b := refPermute key rc.sivKs (refDomain 0xD0 p.2)
      (p.1 ++ refCipher (refGroup data i) (refSqueeze b), b))
    (([] : List Byte), refSetup rc key nonce2 0xB0)).1

/-- R213. -/
def refSiv (rc : RoundCounts) (key nonce ad pt : List Byte) : List Byte :=
  let tag := refSivTag rc key nonce ad pt
  refSivStream rc key (nonce.take 4 ++ tag) pt ++ tag

/-- R231: 16 bytes through the permutation, as a 128-bit little-endian number. -/
def refEncrypt (rounds : Nat) (kslot p : List Byte) : List Byte :=
  let b := refPermute kslot rounds (BitVec.ofNat 128 (p.foldr (fun b n => b.toNat + 256 * n) 0))
  (List.range 16).map (fun i => b.extractLsb' (8 * i) 8)

/-- A constant into byte 0 of a string (R232). -/
def xorFirst (c : Byte) : List Byte → List Byte
  | [] => []
  | b :: bs => (b ^^^ c) :: bs

/-- R232, on the halves `(L, R)` as byte strings. -/
def refCompress (rounds : Nat) (h : List Byte × List Byte) (block : List Byte) (dom : Byte) : List Byte × List Byte :=
  let x := xorFirst dom h.1
  let y := xorFirst 1 x
  (List.zipWith (· ^^^ ·) (refEncrypt rounds (h.2 ++ block) x) x,
   List.zipWith (· ^^^ ·) (refEncrypt rounds (h.2 ++ block) y) y)

/-- The whole 16-byte blocks of a stream, compressed in order (R234). -/
def refBlocks (rounds : Nat) (h : List Byte × List Byte) (stream : List Byte) : List Byte × List Byte :=
  (List.range (stream.length / 16)).foldl (fun h i => refCompress rounds h ((stream.drop (16 * i)).take 16) 0) h

/-- What is left of a stream after its whole blocks (R234). -/
def refRest (stream : List Byte) : List Byte := stream.drop (16 * (stream.length / 16))

/-- R235: one byte 0x01, then zeros up to 16 bytes. -/
def refPad (rest : List Byte) : List Byte := rest ++ 1 :: List.replicate (15 - rest.length) 0

/-- R236. -/
def refHash (rounds : Nat) (msg : List Byte) : List Byte :=
  let h := refBlocks rounds (List.replicate 16 0, List.replicate 16 0) msg
  let f := refCompress rounds h (refPad (refRest msg)) 2
  f.1 ++ f.2

/-- The halves of the chaining value as byte strings (R26). -/
def halves (h : HashRegs) : List Byte × List Byte := (quadBytes h.hl, quadBytes h.hr)

/-- The pending bytes of a hash stream (R27). -/
def pending (h : HashRegs) : List Byte := h.hbuf.toList.take h.hpos

/-- A string filled up with zeros to whole groups (R160). -/
def padGroups (data : List Byte) : List Byte := data ++ List.replicate ((4 - data.length % 4) % 4) 0

end Sys2Proof.Claims

open Sys2Proof Sys2Proof.Machine Sys2Proof.Claims

/-! ### Encoding -/

/-- Decoding an encoded well-formed command gives it back, for every command and every round count (30_encoding.md R90 to R95). -/
def Obligations.DecodeInvertsEncode : Prop := ∀ i : Instr, i.wellFormed = true → decode (encode i) = .ok i

/-- Every word that decodes is the encoding of the well-formed command it decodes to: no word has two spellings. -/
def Obligations.EncodeInvertsDecode : Prop :=
  ∀ (c : Word) (i : Instr), decode c = .ok i → i.wellFormed = true ∧ encode i = c

/-- R97 and R301: a word is illegal iff it matches no row of the table, that is, iff one of the five conditions holds; a busy Core
whose turn it is answers an illegal word with `CMD_ERR` and nothing else. -/
def Obligations.IllegalCommandWord : Prop :=
  (∀ c : Word, ((∃ e, decode c = .error e) ↔ ∀ r ∈ opcodeTable, (c &&& r.mask) ≠ r.pattern) ∧
    ((∃ e, decode c = .error e) ↔ WordIllegal c)) ∧
    ∀ s : State, s.busy = true → coresTurn s = true → WordIllegal s.cmd →
      ∃ t, step s = .next t ∧ OnlyReports .cmdErr s t

/-- R95: at most one row of the opcode table matches a word. -/
def Obligations.OpcodeRowsDisjoint : Prop :=
  opcodeTable.Pairwise fun r q => ∀ c : Word, ¬((c &&& r.mask) = r.pattern ∧ (c &&& q.mask) = q.pattern)

/-- Words of R95 decode to the commands they stand for, one of every family (a sanity statement). -/
def Obligations.SampleWordsDecode : Prop :=
  decode 0x00000000 = .ok .nop ∧ decode 0x00000001 = .ok .clean ∧ decode 0x00080002 = .ok (.perm128 8) ∧
    decode 0xFFFF0202 = .ok (.perm256 65535) ∧ decode 0x00000110 = .ok .aeadEnc192 ∧
    decode 0x00000211 = .ok .aeadDec256 ∧ decode 0x00000012 = .ok .sivEnc128 ∧ decode 0x00000113 = .ok .sivDec192 ∧
    decode 0x00000020 = .ok .hashInit ∧ decode 0x00000021 = .ok .hashUpdate ∧ decode 0x00000022 = .ok .hashFinal ∧
    decode 0x00000023 = .ok .hash

/-! ### Steps -/

/-- A busy Core whose turn it is runs the command its `CMD` decodes to, as one step and with nothing around it; an idle Core whose
turn it is waits (R8, R41, R253). Whose turn it is, is the model's choice of log 4. -/
def Obligations.StepRunsDecodedCommand : Prop :=
  (∀ (s : State) (i : Instr), s.busy = true → coresTurn s = true → decode s.cmd = .ok i → step s = exec i s) ∧
    ∀ s : State, s.busy = false → s.schedule = [] → step s = .next s

/-- A word placed by `withFetchWord` (log 5) is what the very next step runs. -/
def Obligations.FetchedWordRunsNext : Prop :=
  ∀ (s : State) (w : Nat) (i : Instr), decodeTableWord 32 w = some i →
    step (s.withFetchWord 32 w) = exec i (s.withFetchWord 32 w)

/-! ### The permutation -/

/-- R125: 32 serial steps with the bits of a raw key word are one `steps32` with the inverted word. -/
def Obligations.Steps32IsThirtyTwoSteps : Prop :=
  ∀ (s : Quad) (rw : Word),
    (List.range 32).foldl (fun b m => serialStep b (rw.getLsbD m)) (stateBits s) = stateBits (steps32 s (~~~rw))

/-- R129: `permute` is `rounds` times `round128`, is `4·rounds` times `steps32` with the key words `K[0 mod KW]`, `K[1 mod KW]`, ...,
and is `128·rounds` serial steps with the raw key bits of R123; with the source's own vector. -/
def Obligations.PermuteEqualsSerial : Prop :=
  (∀ (s : Quad) (k : KeyRegs) (kw rounds : Nat), kw = 4 ∨ kw = 6 ∨ kw = 8 →
    permute s k kw rounds = (List.range rounds).foldl (fun s r => round128 k kw (4 * r) s) s ∧
      permute s k kw rounds = (List.range (4 * rounds)).foldl (fun s q => steps32 s (keyWord k (q % kw))) s ∧
      permute s k kw rounds = permuteSerial s k kw rounds) ∧
    permute ⟨0x03020100, 0x07060504, 0x0b0a0908, 0x0f0e0d0c⟩ ⟨0xccddeeff, 0x8899aabb, 0x44556677, 0x00112233, 0, 0, 0, 0⟩ 4 8 =
      ⟨0xd9025b75, 0xdea7c711, 0xc42bfe5c, 0x361e5016⟩

/-- R134: `permute` is a bijection for each key and round count, and the two inverse formulas invert. -/
def Obligations.PermuteIsBijection : Prop :=
  (∀ (k : KeyRegs) (kw rounds : Nat), Function.Bijective fun s => permute s k kw rounds) ∧
    (∀ (b : BitVec 128) (kb : Bool), serialStepInverse (serialStep b kb) kb = b ∧ serialStep (serialStepInverse b kb) kb = b) ∧
    ∀ (s : Quad) (kw : Word), steps32Inverse (steps32 s kw) kw = s ∧ steps32 (steps32Inverse s kw) kw = s

/-- R135: the two fixed points, for every round count, and one round of the zero state under the all-zero key. -/
def Obligations.PermuteFixedPoints : Prop :=
  (∀ kw rounds, permute ⟨0, 0, 0, 0⟩ ⟨0, 0, 0, 0, 0, 0, 0, 0⟩ kw rounds = ⟨0, 0, 0, 0⟩) ∧
    (∀ (k : KeyRegs) (kw rounds : Nat), 0 < kw → (∀ i < kw, keyWord k i = 0xFFFFFFFF) →
      permute ⟨0xFFFFFFFF, 0xFFFFFFFF, 0xFFFFFFFF, 0xFFFFFFFF⟩ k kw rounds =
        ⟨0xFFFFFFFF, 0xFFFFFFFF, 0xFFFFFFFF, 0xFFFFFFFF⟩) ∧
    permute ⟨0, 0, 0, 0⟩ (keySchedule (List.replicate 16 0)) 4 1 = ⟨0xffffffff, 0xfc00001f, 0x800103ff, 0xf7f07fff⟩

/-- R130: 0 rounds change nothing; a call splits in two where the key pattern repeats, and not in general. -/
def Obligations.PermuteSplitsAtPattern : Prop :=
  (∀ (s : Quad) (k : KeyRegs) (kw : Nat), permute s k kw 0 = s) ∧
    (∀ (s : Quad) (k : KeyRegs) (kw a b : Nat), kw = 4 ∨ kw = 6 ∨ kw = 8 → 4 * a % kw = 0 →
      permute s k kw (a + b) = permute (permute s k kw a) k kw b) ∧
    ∃ (s : Quad) (k : KeyRegs) (a b : Nat), permute s k 6 (a + b) ≠ permute (permute s k 6 a) k 6 b

/-- R127 and R128: the `q`-th `steps32` of a call uses `K[q mod KW]`, counted from 0 in every call, whatever call came before. -/
def Obligations.KeyWordsTakenCyclically : Prop :=
  ∀ (s : Quad) (k : KeyRegs) (kw r rounds : Nat),
    permute (permute s k kw r) k kw rounds =
      (List.range (4 * rounds)).foldl (fun s q => steps32 s (keyWord k (q % kw))) (permute s k kw r)

/-- R123: with `n = j mod (32·KW)`, the raw key bit of step `j` is the complement of bit `n mod 32` of `K[n div 32]`, is bit
`n mod 32` of the raw key word `n div 32`, and is bit `n mod 8` of key byte `n div 8`. -/
def Obligations.RawKeyBitsAreKeyBytes : Prop :=
  ∀ (key : List Byte) (j : Nat), key.length = 16 ∨ key.length = 24 ∨ key.length = 32 →
    let n := j % (8 * key.length)
    rawKeyBit (keySchedule key) (key.length / 4) j = !(keyWord (keySchedule key) (n / 32)).getLsbD (n % 32) ∧
      rawKeyBit (keySchedule key) (key.length / 4) j = (le32 key (4 * (n / 32))).getLsbD (n % 32) ∧
      rawKeyBit (keySchedule key) (key.length / 4) j = (byteAt key (n / 8)).getLsbD (n % 8)

/-- R132: the schedule words are the inverted little-endian key words, the unused registers 0. -/
def Obligations.KeyScheduleInvertsWords : Prop :=
  ∀ (key : List Byte) (e : Engine) (i : Nat), key.length = 16 ∨ key.length = 24 ∨ key.length = 32 → i < 8 →
    (loadKey key e).kw = key.length / 4 ∧
      keyWord (loadKey key e).k i = if i < key.length / 4 then ~~~(le32 key (4 * i)) else 0

/-- R62 and R64: storing a loaded word gives the bytes back, loading a stored word gives the word back. -/
def Obligations.WordBytesRoundTrip : Prop :=
  (∀ b : List Byte, 4 ≤ b.length → bytes32 (le32 b 0) = b.take 4) ∧ ∀ w : Word, le32 (bytes32 w) 0 = w

/-! ### The sponge -/

/-- R155: the full groups are taken by index in increasing order, then the partial group of R156 if bytes are left. -/
def Obligations.AbsorbTakesGroupsInOrder : Prop :=
  ∀ (d : Byte) (rounds : Nat) (data : List Byte) (e : Engine),
    let g := data.length / 4
    let full := (List.range g).foldl
      (fun e i => absorbWord (le32 data (4 * i)) (runPermute rounds (addDomain d e))) e
    absorb d rounds data e = if data.length % 4 = 0 then full else absorbPartial d rounds (data.drop (4 * g)) full

/-- R160: two strings of different lengths, of as many groups and alike once filled up with zeros, leave states that differ in
`S[1]` alone, by the XOR of their lengths mod 4, which is not 0. -/
def Obligations.PaddingIsInjective : Prop :=
  ∀ (d : Byte) (rounds : Nat) (a b : List Byte) (e : Engine),
    a.length ≠ b.length → groupCount a.length = groupCount b.length → padGroups a = padGroups b →
      (absorb d rounds a e).s.w0 = (absorb d rounds b e).s.w0 ∧
        (absorb d rounds a e).s.w2 = (absorb d rounds b e).s.w2 ∧
        (absorb d rounds a e).s.w3 = (absorb d rounds b e).s.w3 ∧
        (absorb d rounds a e).s.w1 ^^^ (absorb d rounds b e).s.w1 =
          BitVec.ofNat 32 (a.length % 4) ^^^ BitVec.ofNat 32 (b.length % 4) ∧
        (absorb d rounds a e).s.w1 ≠ (absorb d rounds b e).s.w1

/-! ### The modes as functions -/

/-- R180: `aead_encrypt` computes the AEAD of the bit-serial reference, for the three key sizes and every round table. -/
def Obligations.AeadEncryptIsBitSerialSpec : Prop :=
  ∀ (rc : RoundCounts) (key nonce ad pt : List Byte) (e : Engine),
    key.length = 16 ∨ key.length = 24 ∨ key.length = 32 → nonce.length = 12 →
      (aeadEncrypt rc key nonce ad pt e).1 = refAead rc key nonce ad pt

/-- R213: `siv_encrypt` computes the SIV of the bit-serial reference. -/
def Obligations.SivEncryptIsBitSerialSpec : Prop :=
  ∀ (rc : RoundCounts) (key nonce ad pt : List Byte) (e : Engine),
    key.length = 16 ∨ key.length = 24 ∨ key.length = 32 → nonce.length = 12 →
      (sivEncrypt rc key nonce ad pt e).1 = refSiv rc key nonce ad pt

/-- R241 and R236: the hash's block-cipher call is the bit-serial one, and `hash` is the hash of the bit-serial reference, block by
block. -/
def Obligations.HashIsBitSerialSpec : Prop :=
  (∀ (rounds : Nat) (kslot p : List Byte) (e : Engine), kslot.length = 32 → p.length = 16 →
    (hashEncrypt rounds kslot p e).1 = refEncrypt rounds kslot p) ∧
    ∀ (rounds : Nat) (msg : List Byte) (e : Engine), (hashMessage rounds msg e).1 = refHash rounds msg

/-- R190: decrypting an encryption gives the plaintext back. And authentication the other way round (42_aead.md section 2): an input
that releases a plaintext is the encryption of that plaintext, so no other input releases anything. -/
def Obligations.AeadRoundTrip : Prop :=
  (∀ (rc : RoundCounts) (key nonce ad pt : List Byte) (e e' : Engine),
    (aeadDecrypt rc key nonce ad (aeadEncrypt rc key nonce ad pt e).1 e').1 = .plaintext pt) ∧
    ∀ (rc : RoundCounts) (key nonce ad x pt : List Byte) (e e' : Engine),
      (aeadDecrypt rc key nonce ad x e).1 = .plaintext pt → (aeadEncrypt rc key nonce ad pt e').1 = x

/-- R217: the same for SIV. And authentication the other way round (43_siv.md section 2): an input that releases a plaintext is the
encryption of that plaintext, its tag included. -/
def Obligations.SivRoundTrip : Prop :=
  (∀ (rc : RoundCounts) (key nonce ad pt : List Byte) (e e' : Engine),
    (sivDecrypt rc key nonce ad (sivEncrypt rc key nonce ad pt e).1 e').1 = .plaintext pt) ∧
    ∀ (rc : RoundCounts) (key nonce ad x pt : List Byte) (e e' : Engine),
      (sivDecrypt rc key nonce ad x e).1 = .plaintext pt → (sivEncrypt rc key nonce ad pt e').1 = x

/-- R187: an encryption is 8 bytes longer than its plaintext, a released plaintext 8 bytes shorter than its input, and an input
shorter than 8 bytes is `LengthError`. -/
def Obligations.EncryptAddsEightBytes : Prop :=
  ∀ (rc : RoundCounts) (key nonce ad x : List Byte) (e : Engine),
    (aeadEncrypt rc key nonce ad x e).1.length = x.length + 8 ∧
      (sivEncrypt rc key nonce ad x e).1.length = x.length + 8 ∧
      (∀ pt, (aeadDecrypt rc key nonce ad x e).1 = .plaintext pt → pt.length + 8 = x.length) ∧
      (∀ pt, (sivDecrypt rc key nonce ad x e).1 = .plaintext pt → pt.length + 8 = x.length) ∧
      ((aeadDecrypt rc key nonce ad x e).1 = .lengthError ↔ x.length < 8) ∧
      ((sivDecrypt rc key nonce ad x e).1 = .lengthError ↔ x.length < 8)

/-- R191 (a): with the ciphertext kept, every other tag fails. -/
def Obligations.AeadTagTamperFails : Prop :=
  ∀ (rc : RoundCounts) (key nonce ad ct tag tag' pt : List Byte) (e : Engine),
    tag.length = 8 → tag'.length = 8 → tag' ≠ tag → (aeadDecrypt rc key nonce ad (ct ++ tag) e).1 = .plaintext pt →
      (aeadDecrypt rc key nonce ad (ct ++ tag') e).1 = .authenticationFailure

/-- R192: under one key and nonce, plaintexts that agree on whole groups `p` give ciphertexts that agree on them; in the next group,
full or final, as many bytes as both plaintexts have there differ in the ciphertexts as they do in the plaintexts. -/
def Obligations.NonceReuseLeaksXor : Prop :=
  ∀ (rc : RoundCounts) (key nonce ad p x y : List Byte) (e : Engine), p.length % 4 = 0 →
    let c := (aeadEncrypt rc key nonce ad (p ++ x) e).1
    let c' := (aeadEncrypt rc key nonce ad (p ++ y) e).1
    c.take p.length = c'.take p.length ∧
      ∀ n, n ≤ 4 → n ≤ x.length → n ≤ y.length →
        xorBytes ((c.drop p.length).take n) ((c'.drop p.length).take n) = xorBytes (x.take n) (y.take n)

/-- R212: the keystream pass undoes itself under one derived nonce. -/
def Obligations.SivStreamIsInvolution : Prop :=
  ∀ (rc : RoundCounts) (x : List Byte) (e : Engine), (sivStream rc (sivStream rc x e).1 e).1 = x

/-- R211: the derived nonce is the first 4 nonce bytes and the 8 tag bytes. -/
def Obligations.SivDerivedNonce : Prop :=
  ∀ (nonce tag : List Byte) (e : Engine), nonce.length = 12 → tag.length = 8 →
    nonce2Bytes (sivRekey nonce tag e) = nonce.take 4 ++ tag

/-- R354: the rounds of the AEAD and SIV commands, whether or not authentication fails. -/
def Obligations.ModeWorkMeasure : Prop :=
  ∀ (rc : RoundCounts) (key nonce ad x : List Byte) (e : Engine),
    (aeadEncrypt rc key nonce ad x e).2.work = e.work + aeadWork rc ad.length x.length ∧
      (sivEncrypt rc key nonce ad x e).2.work = e.work + sivWork rc ad.length x.length ∧
      (8 ≤ x.length → (aeadDecrypt rc key nonce ad x e).2.work = e.work + aeadWork rc ad.length (x.length - 8)) ∧
      (8 ≤ x.length → (sivDecrypt rc key nonce ad x e).2.work = e.work + sivWork rc ad.length (x.length - 8))

/-- R354: the rounds of the hash commands. -/
def Obligations.HashWorkMeasure : Prop :=
  ∀ (rounds : Nat) (data : List Byte) (h : HashRegs) (e : Engine), h.hpos ≤ 15 →
    (hashUpdate rounds data (h, e)).2.work = e.work + hashUpdateWork rounds h.hpos data.length ∧
      (hashFinalize rounds (h, e)).2.2.work = e.work + hashFinalWork rounds ∧
      (hashMessage rounds data e).2.2.work = e.work + hashWork rounds data.length

/-- R41 and R42: the phases the mode commands pass through, in order; a phase with no groups is passed through too. -/
def Obligations.ModePhaseTrails : Prop :=
  ∀ (rc : RoundCounts) (key nonce ad x : List Byte) (s : State),
    (aeadEncrypt rc key nonce ad x (startEngine s)).2.trail = commandPhases .aeadEnc128 ∧
      (sivEncrypt rc key nonce ad x (startEngine s)).2.trail = commandPhases .sivEnc128 ∧
      (8 ≤ x.length → (aeadDecrypt rc key nonce ad x (startEngine s)).2.trail = commandPhases .aeadDec128) ∧
      (8 ≤ x.length → (sivDecrypt rc key nonce ad x (startEngine s)).2.trail = commandPhases .sivDec128)

/-! ### The commands -/

/-- R250: the word 0 is `NOP`; it completes, does nothing else, and `STATUS` then reads 2, or 6 while a hash stream is open. -/
def Obligations.NopResult : Prop :=
  decode 0x00000000 = .ok .nop ∧
    ∀ s : State, ∃ t, exec .nop s = .next t ∧ EndsWith .none t ∧ t.outLen = 0 ∧ t.mem = s.mem ∧ KeepsHash s t ∧
      KeepsHost s t ∧ statusWord t = if s.hashActive then 6 else 2

/-- R251: only the word 1 is `CLEAN`; it always completes, every datapath register is then zero, MEM and the operand registers are
not changed, and it is idempotent. -/
def Obligations.CleanResult : Prop :=
  (∀ c : Word, decode c = .ok .clean ↔ c = 0x00000001) ∧
    ∀ s : State, ∃ t, exec .clean s = .next t ∧ EndsWith .none t ∧ t.outLen = 0 ∧ t.hash = HashRegs.zero ∧
      t.hashActive = false ∧ t.mem = s.mem ∧ KeepsHost s t ∧ exec .clean t = .next t ∧ statusWord t = 2

/-- R252: `PERM.ks` applies the permutation, here in its serial form, to the 16 input bytes under the raw key; a region that is not
valid gives `ADDR_ERR`. -/
def Obligations.PermCommandResult : Prop :=
  ∀ (ks : KeySize) (rounds : Nat),
    (rounds < 65536 → decode (commandOf 0x02 (ksCode ks) rounds) = .ok (permOf ks rounds)) ∧
      ∀ s : State,
        (PermFits ks s →
          ∃ t, exec (permOf ks rounds) s = .next t ∧ EndsWith .none t ∧ t.outLen = 16 ∧
            memRead t.mem s.ops.outAddr.toNat 16 =
              quadBytes (permuteSerial (quadOfBytes (memRead s.mem s.ops.inAddr.toNat 16)) (keySchedule (keyIn ks s))
                (keyBytes ks / 4) rounds) ∧
            MemKeptOutside s.ops.outAddr.toNat 16 s t ∧ KeepsHash s t ∧ KeepsHost s t) ∧
        (¬PermFits ks s → ∃ t, exec (permOf ks rounds) s = .next t ∧ OnlyReports .addrErr s t)

/-- R188: `AEAD_ENC.ks` writes ciphertext and tag, whatever the engine held before; a region that is not valid gives `ADDR_ERR`.
Of `OUT_LEN` it says nothing where 32 bits cannot hold the length (log 6). -/
def Obligations.AeadEncCommandResult : Prop :=
  ∀ ks : KeySize, decode (commandOf 0x10 (ksCode ks) 0) = .ok (aeadEncOf ks) ∧
    ∀ (s : State) (e : Engine),
      (ModeFits ks (s.ops.inLen.toNat + 8) s →
        ∃ t, exec (aeadEncOf ks) s = .next t ∧ EndsWith .none t ∧ OutLenIs (s.ops.inLen.toNat + 8) t ∧
          memRead t.mem s.ops.outAddr.toNat (s.ops.inLen.toNat + 8) =
            (aeadEncrypt (roundsFor s.config.rc ks) (keyIn ks s) (nonceIn s) (adIn s) (dataIn s) e).1 ∧
          MemKeptOutside s.ops.outAddr.toNat (s.ops.inLen.toNat + 8) s t ∧ KeepsHash s t ∧ KeepsHost s t) ∧
      (¬ModeFits ks (s.ops.inLen.toNat + 8) s → ∃ t, exec (aeadEncOf ks) s = .next t ∧ OnlyReports .addrErr s t)

/-- R189: `AEAD_DEC.ks` with fewer than 8 input bytes gives `LEN_ERR`, else with a region that is not valid `ADDR_ERR`; else it
releases the plaintext, or fills the output region with zeros and reports `AUTH_FAIL`. -/
def Obligations.AeadDecCommandResult : Prop :=
  ∀ ks : KeySize, decode (commandOf 0x11 (ksCode ks) 0) = .ok (aeadDecOf ks) ∧
    ∀ (s : State) (e : Engine),
      (8 ≤ s.ops.inLen.toNat → ModeFits ks (s.ops.inLen.toNat - 8) s →
        ∃ t, exec (aeadDecOf ks) s = .next t ∧
          DecryptEnds (aeadDecrypt (roundsFor s.config.rc ks) (keyIn ks s) (nonceIn s) (adIn s) (dataIn s) e).1
            s.ops.outAddr.toNat (s.ops.inLen.toNat - 8) t ∧
          MemKeptOutside s.ops.outAddr.toNat (s.ops.inLen.toNat - 8) s t ∧ KeepsHash s t ∧ KeepsHost s t) ∧
      (s.ops.inLen.toNat < 8 → ∃ t, exec (aeadDecOf ks) s = .next t ∧ OnlyReports .lenErr s t) ∧
      (8 ≤ s.ops.inLen.toNat → ¬ModeFits ks (s.ops.inLen.toNat - 8) s →
        ∃ t, exec (aeadDecOf ks) s = .next t ∧ OnlyReports .addrErr s t)

/-- R215: `SIV_ENC.ks` writes ciphertext and tag, whatever the engine held before; a region that is not valid gives `ADDR_ERR`.
Of `OUT_LEN` it says nothing where 32 bits cannot hold the length (log 6). -/
def Obligations.SivEncCommandResult : Prop :=
  ∀ ks : KeySize, decode (commandOf 0x12 (ksCode ks) 0) = .ok (sivEncOf ks) ∧
    ∀ (s : State) (e : Engine),
      (ModeFits ks (s.ops.inLen.toNat + 8) s →
        ∃ t, exec (sivEncOf ks) s = .next t ∧ EndsWith .none t ∧ OutLenIs (s.ops.inLen.toNat + 8) t ∧
          memRead t.mem s.ops.outAddr.toNat (s.ops.inLen.toNat + 8) =
            (sivEncrypt (roundsFor s.config.rc ks) (keyIn ks s) (nonceIn s) (adIn s) (dataIn s) e).1 ∧
          MemKeptOutside s.ops.outAddr.toNat (s.ops.inLen.toNat + 8) s t ∧ KeepsHash s t ∧ KeepsHost s t) ∧
      (¬ModeFits ks (s.ops.inLen.toNat + 8) s → ∃ t, exec (sivEncOf ks) s = .next t ∧ OnlyReports .addrErr s t)

/-- R216: `SIV_DEC.ks` with fewer than 8 input bytes gives `LEN_ERR`, else with a region that is not valid `ADDR_ERR`; else it
releases the plaintext, or fills the output region with zeros and reports `AUTH_FAIL`. -/
def Obligations.SivDecCommandResult : Prop :=
  ∀ ks : KeySize, decode (commandOf 0x13 (ksCode ks) 0) = .ok (sivDecOf ks) ∧
    ∀ (s : State) (e : Engine),
      (8 ≤ s.ops.inLen.toNat → ModeFits ks (s.ops.inLen.toNat - 8) s →
        ∃ t, exec (sivDecOf ks) s = .next t ∧
          DecryptEnds (sivDecrypt (roundsFor s.config.rc ks) (keyIn ks s) (nonceIn s) (adIn s) (dataIn s) e).1
            s.ops.outAddr.toNat (s.ops.inLen.toNat - 8) t ∧
          MemKeptOutside s.ops.outAddr.toNat (s.ops.inLen.toNat - 8) s t ∧ KeepsHash s t ∧ KeepsHost s t) ∧
      (s.ops.inLen.toNat < 8 → ∃ t, exec (sivDecOf ks) s = .next t ∧ OnlyReports .lenErr s t) ∧
      (8 ≤ s.ops.inLen.toNat → ¬ModeFits ks (s.ops.inLen.toNat - 8) s →
        ∃ t, exec (sivDecOf ks) s = .next t ∧ OnlyReports .addrErr s t)

/-- R237: the word 0x20 is `HASH_INIT`; it opens a fresh stream, whatever stream was open before. -/
def Obligations.HashInitResult : Prop :=
  decode 0x00000020 = .ok .hashInit ∧
    ∀ s : State, ∃ t, exec .hashInit s = .next t ∧ EndsWith .none t ∧ t.outLen = 0 ∧ t.hash = HashRegs.zero ∧
      t.hashActive = true ∧ t.mem = s.mem ∧ KeepsHost s t

/-- R238 and R234: with no open stream `HASH_UPDATE` gives `SEQ_ERR`, else with an input region that is not valid `ADDR_ERR`; else it
compresses the whole blocks of the pending bytes followed by the input, and keeps the rest pending; no input changes no hash
register. That `R_HASH` is read from the 256-bit column of `RC` is the model's reading (log 13). -/
def Obligations.HashUpdateResult : Prop :=
  decode 0x00000021 = .ok .hashUpdate ∧
    ∀ s : State,
      (s.hashActive = true → s.hash.hpos ≤ 15 → s.hash.tailZero → Fits s s.ops.inAddr.toNat s.ops.inLen.toNat →
        ∃ t, exec .hashUpdate s = .next t ∧ EndsWith .none t ∧ t.outLen = 0 ∧ t.hashActive = true ∧
          halves t.hash = refBlocks s.config.rc.k256.hash (halves s.hash) (pending s.hash ++ dataIn s) ∧
          pending t.hash = refRest (pending s.hash ++ dataIn s) ∧ t.hash.hpos ≤ 15 ∧ t.hash.tailZero ∧
          (s.ops.inLen = 0 → t.hash = s.hash) ∧ t.mem = s.mem ∧ KeepsHost s t) ∧
      (s.hashActive = false → ∃ t, exec .hashUpdate s = .next t ∧ OnlyReports .seqErr s t) ∧
      (s.hashActive = true → ¬Fits s s.ops.inAddr.toNat s.ops.inLen.toNat →
        ∃ t, exec .hashUpdate s = .next t ∧ OnlyReports .addrErr s t)

/-- R239 and R235: with no open stream `HASH_FINAL` gives `SEQ_ERR`, else with an output region that is not valid `ADDR_ERR`; else it
pads and compresses the pending bytes, writes the digest and closes the stream. That `R_HASH` is read from the 256-bit column of
`RC` is the model's reading (log 13). -/
def Obligations.HashFinalResult : Prop :=
  decode 0x00000022 = .ok .hashFinal ∧
    ∀ s : State,
      (s.hashActive = true → s.hash.hpos ≤ 15 → Fits s s.ops.outAddr.toNat 32 →
        ∃ t, exec .hashFinal s = .next t ∧ EndsWith .none t ∧ t.outLen = 32 ∧ t.hash = HashRegs.zero ∧ t.hashActive = false ∧
          memRead t.mem s.ops.outAddr.toNat 32 =
            (let f := refCompress s.config.rc.k256.hash (halves s.hash) (refPad (pending s.hash)) 2; f.1 ++ f.2) ∧
          MemKeptOutside s.ops.outAddr.toNat 32 s t ∧ KeepsHost s t) ∧
      (s.hashActive = false → ∃ t, exec .hashFinal s = .next t ∧ OnlyReports .seqErr s t) ∧
      (s.hashActive = true → ¬Fits s s.ops.outAddr.toNat 32 → ∃ t, exec .hashFinal s = .next t ∧ OnlyReports .addrErr s t)

/-- R240: `HASH` writes the digest of its input and leaves no stream open, whether or not one was; a region that is not valid gives
`ADDR_ERR`. That `R_HASH` is read from the 256-bit column of `RC` is the model's reading (log 13). -/
def Obligations.HashResult : Prop :=
  decode 0x00000023 = .ok .hash ∧
    ∀ (s : State) (e : Engine),
      (Fits s s.ops.inAddr.toNat s.ops.inLen.toNat → Fits s s.ops.outAddr.toNat 32 →
        ∃ t, exec .hash s = .next t ∧ EndsWith .none t ∧ t.outLen = 32 ∧ t.hash = HashRegs.zero ∧ t.hashActive = false ∧
          memRead t.mem s.ops.outAddr.toNat 32 = (hashMessage s.config.rc.k256.hash (dataIn s) e).1 ∧
          MemKeptOutside s.ops.outAddr.toNat 32 s t ∧ KeepsHost s t) ∧
      (¬(Fits s s.ops.inAddr.toNat s.ops.inLen.toNat ∧ Fits s s.ops.outAddr.toNat 32) →
        ∃ t, exec .hash s = .next t ∧ OnlyReports .addrErr s t)

/-- R101 (c): `HASH` has the effect of `HASH_INIT; HASH_UPDATE; HASH_FINAL` with the same operands: the two end in the same
state. -/
def Obligations.HashEqualsStream : Prop :=
  ∀ s : State, Fits s s.ops.inAddr.toNat s.ops.inLen.toNat → Fits s s.ops.outAddr.toNat 32 →
    ∃ t u v, exec .hashInit s = .next t ∧ exec .hashUpdate t = .next u ∧ exec .hashFinal u = .next v ∧ exec .hash s = .next v

/-- R234: splitting the input of `HASH_UPDATE` in two gives the same hash registers as giving it whole; all three commands end
normally. The hypotheses say that the registers hold the addresses and lengths, and that the region is valid. -/
def Obligations.HashUpdateSplits : Prop :=
  ∀ (s : State) (a m n : Nat), s.hashActive = true → a + m < 2 ^ 32 → m + n < 2 ^ 32 → Fits s a (m + n) →
    ∃ t u v,
      exec .hashUpdate { s with ops := { s.ops with inAddr := BitVec.ofNat 32 a, inLen := BitVec.ofNat 32 m } } = .next t ∧
      exec .hashUpdate
        { t with ops := { s.ops with inAddr := BitVec.ofNat 32 (a + m), inLen := BitVec.ofNat 32 n } } = .next u ∧
      exec .hashUpdate { s with ops := { s.ops with inAddr := BitVec.ofNat 32 a, inLen := BitVec.ofNat 32 (m + n) } } =
        .next v ∧
      u.hash = v.hash ∧ t.hashActive = true ∧ u.hashActive = true ∧ v.hashActive = true ∧
      t.err = .none ∧ u.err = .none ∧ v.err = .none

/-! ### Errors -/

/-- R307 with R302, R303, R304 and R308: of the conditions that hold for the command in `CMD`, the first in the order illegal word,
sequence, length, regions decides the error and nothing else happens; a command whose checks all pass ends normally, or with
`AUTH_FAIL` if it decrypts. -/
def Obligations.ChecksInPriorityOrder : Prop :=
  ∀ s : State, s.busy = true → coresTurn s = true → ∃ t, step s = .next t ∧
    (WordIllegal s.cmd → OnlyReports .cmdErr s t) ∧
    ∀ i : Instr, decode s.cmd = .ok i →
      (needsStream i = true ∧ s.hashActive = false → OnlyReports .seqErr s t) ∧
      (decrypts i = true ∧ s.ops.inLen.toNat < 8 → OnlyReports .lenErr s t) ∧
      (¬(needsStream i = true ∧ s.hashActive = false) → ¬(decrypts i = true ∧ s.ops.inLen.toNat < 8) → ¬RegionsFit i s →
        OnlyReports .addrErr s t) ∧
      (¬(needsStream i = true ∧ s.hashActive = false) → ¬(decrypts i = true ∧ s.ops.inLen.toNat < 8) → RegionsFit i s →
        t.err = .none ∨ decrypts i = true ∧ t.err = .authFail)

/-- R312: from every state with `BUSY = 0` every command word leads, in one Core step, to another state with `BUSY = 0`, with the
result reported and the datapath clear. -/
def Obligations.EveryCommandWordCompletes : Prop :=
  ∀ (s : State) (c : Word), s.busy = false →
    ∃ t, step { acceptCommand c s with schedule := [] } = .next t ∧ t.busy = false ∧ t.done = true ∧ t.phase = .idle ∧
      t.dp = Datapath.zero

/-! ### Frames over all commands -/

/-- R32: no command writes an operand register, `CMD` or the build parameters, nor touches the Host's side. -/
def Obligations.CommandsKeepHostRegisters : Prop :=
  ∀ (i : Instr) (s t : State), exec i s = .next t → KeepsHost s t

/-- R67, R78, R96: a command writes MEM only inside its output region at `OUT_ADDR`, and only if that region is valid. -/
def Obligations.CommandsWriteOnlyOutput : Prop :=
  ∀ (i : Instr) (s t : State), exec i s = .next t →
    MemKeptOutside s.ops.outAddr.toNat (outputBytes i s) s t ∧
      (¬Fits s s.ops.outAddr.toNat (outputBytes i s) → t.mem = s.mem)

/-- R254, R348: only the hash commands and `CLEAN` touch the hash registers. -/
def Obligations.CipherCommandsKeepHash : Prop :=
  ∀ (i : Instr) (s t : State), touchesHash i = false → exec i s = .next t → KeepsHash s t

/-- R96: an operand register that a command does not read is ignored by it, whatever it holds. -/
def Obligations.UnreadOperandsIgnored : Prop :=
  ∀ (i : Instr) (s t : State), exec i { s with ops := readOperands i s.ops } = .next t →
    exec i s = .next { t with ops := s.ops }

/-- R21, R23: what the datapath registers hold when a command starts has no effect on it. -/
def Obligations.DatapathResidueIgnored : Prop :=
  ∀ (i : Instr) (s : State) (d : Datapath), exec i { s with dp := d } = exec i s

/-! ### Invariants and reset -/

/-- R312, R351: every step of Host, platform or Core keeps the invariant of Safety.lean. -/
def Obligations.StepKeepsInvariant : Prop := ∀ s t : State, s.Inv → step s = .next t → t.Inv

/-- The state after reset has the invariant, for every configuration. -/
def Obligations.ResetHasInvariant : Prop := ∀ c : Config, (State.resetWith c).Inv

/-- R45: every register after reset, read one by one, for every configuration. That a byte of MEM then holds a free
value is the model's choice of log 3. -/
def Obligations.ResetValues : Prop :=
  ∀ c : Config, let s := State.resetWith c
    s.dp.s = ⟨0, 0, 0, 0⟩ ∧ s.dp.k = ⟨0, 0, 0, 0, 0, 0, 0, 0⟩ ∧ s.dp.kw = 0 ∧ s.dp.t = ⟨0, 0⟩ ∧ s.dp.n2 = ⟨0, 0, 0⟩ ∧
      s.hash.hl = ⟨0, 0, 0, 0⟩ ∧ s.hash.hr = ⟨0, 0, 0, 0⟩ ∧ (∀ i (_ : i < 16), s.hash.hbuf[i] = 0) ∧ s.hash.hpos = 0 ∧
      s.hashActive = false ∧ s.cmd = 0 ∧ statusWord s = 0 ∧ s.err = .none ∧ s.ops = ⟨0, 0, 0, 0, 0, 0, 0⟩ ∧ s.outLen = 0 ∧
      s.phase = .idle ∧ ∀ a, memByte s.mem a = Config.powerUpByte a

/-- R340 to R342: the reset event puts every register at its reset value and changes no byte of MEM, busy or not. -/
def Obligations.ResetEventResult : Prop :=
  ∀ (s : State) (rest : List Move), s.schedule = .reset :: rest →
    step s = .next { State.resetWith s.config with mem := s.mem, schedule := rest, replies := s.replies }

/-! ### The Host's port -/

/-- R31, R300: the fields of `STATUS` where the Host reads them, the six error codes, and every other bit 0; the codes 6 to 15 never
appear. -/
def Obligations.StatusWordLayout : Prop :=
  ∀ s : State, ((statusWord s).getLsbD 0 = s.busy ∧ (statusWord s).getLsbD 1 = s.done ∧
    (statusWord s).getLsbD 2 = s.hashActive) ∧ (statusWord s).extractLsb' 3 5 = 0 ∧
    ((statusWord s).extractLsb' 8 4).toNat = statedErrCode s.err ∧ (statusWord s).extractLsb' 12 20 = 0 ∧
    ((statusWord s).extractLsb' 8 4).toNat ≤ 5

/-- R30, R34, R71: a 32-bit aligned register write. While idle, a write of `CMD` is accepted, a write of an operand register is
what it reads afterwards and no other register changes, and any other write is ignored; while busy every write is ignored. That
offsets from 0x100 on are ignored like the unmapped ones below is the model's reading (log 14). -/
def Obligations.HostRegisterWrites : Prop :=
  ∀ (s : State) (offset : Nat) (v : Word) (rest : List Move), s.schedule = .regWrite .word offset v :: rest →
    offset % 4 = 0 →
      ∃ t, step s = .next t ∧ t.schedule = rest ∧
        (s.busy = true → t = { s with schedule := rest }) ∧
        (s.busy = false → offset = 0 →
          t = { s with schedule := rest, cmd := v, busy := true, done := false, err := .none, phase := .check }) ∧
        (s.busy = false → offset ∈ [0x08, 0x0C, 0x10, 0x14, 0x18, 0x1C, 0x20] →
          t = { s with schedule := rest, ops := t.ops } ∧
            ∀ o, regRead o t = if o = offset then v else regRead o s) ∧
        (s.busy = false → offset ∉ [0x00, 0x08, 0x0C, 0x10, 0x14, 0x18, 0x1C, 0x20] → t = { s with schedule := rest })

/-- R60, R66, R67, R74: while the Core is idle, bytes the Host writes to MEM are what it reads back in its next move, every
other byte is as before, and nothing else in the Core changes. -/
def Obligations.HostMemoryReadBack : Prop :=
  ∀ (s : State) (a : Nat) (bytes : List Byte) (rest : List Move), s.busy = false →
    s.schedule = .memWrite a bytes :: .memRead a bytes.length :: rest → Fits s a bytes.length →
      ∃ t u, step s = .next t ∧ step t = .next u ∧ u.replies = s.replies ++ [.mem a bytes] ∧
        MemKeptOutside a bytes.length s u ∧
        u = { s with mem := u.mem, schedule := rest, replies := u.replies }

/-- R34, R69, R71: a 32-bit aligned register read returns the register of the map at that offset, or 0 where the map has none,
busy or not, and changes nothing in the Core. That offsets from 0x100 on read 0 like the unmapped ones below is the model's
reading (log 14). -/
def Obligations.HostRegisterReads : Prop :=
  ∀ (s : State) (offset : Nat) (rest : List Move), s.schedule = .regRead .word offset :: rest → offset % 4 = 0 →
    ∃ v, step s = .next { s with schedule := rest, replies := s.replies ++ [.reg offset v] } ∧
      (offset = 0x00 → v = s.cmd) ∧ (offset = 0x04 → v = statusWord s) ∧ (offset = 0x08 → v = s.ops.keyAddr) ∧
      (offset = 0x0C → v = s.ops.nonceAddr) ∧ (offset = 0x10 → v = s.ops.adAddr) ∧ (offset = 0x14 → v = s.ops.adLen) ∧
      (offset = 0x18 → v = s.ops.inAddr) ∧ (offset = 0x1C → v = s.ops.inLen) ∧ (offset = 0x20 → v = s.ops.outAddr) ∧
      (offset = 0x24 → v = s.outLen) ∧ (0x28 ≤ offset → v = 0)

/-- Where the Host's moves stop, the model's choices of logs 7, 8 and 9: a register access that is narrow or not at a multiple of 4
is refused (R34); an access to MEM is refused while busy (R76) and faults while idle where it names an address that does not exist
(R60). -/
def Obligations.HostAccessesThatStop : Prop :=
  (∀ (s : State) (w : AccessWidth) (offset : Nat) (v : Word) (rest : List Move), w ≠ .word ∨ offset % 4 ≠ 0 →
    (s.schedule = .regWrite w offset v :: rest ∨ s.schedule = .regRead w offset :: rest) →
      step s = .refused .registerAccessShape) ∧
    (∀ (s : State) (a n : Nat) (bytes : List Byte) (rest : List Move), s.busy = true →
      (s.schedule = .memWrite a bytes :: rest ∨ s.schedule = .memRead a n :: rest) → step s = .refused .hostMemoryWhileBusy) ∧
    ∀ (s : State) (a n : Nat) (bytes : List Byte) (rest : List Move), s.busy = false →
      (s.schedule = .memWrite a bytes :: rest ∧ ¬Fits s a bytes.length ∨ s.schedule = .memRead a n :: rest ∧ ¬Fits s a n) →
        step s = .fault .noSuchAddress
end

