-- ==== Sys2Proof/Laws/State.lean ====
section
/-! SUPPORT. One lemma per field per update of the state and of the engine, true by rfl, so that no proof unfolds a record
update. -/

namespace Sys2Proof.Machine

/-! ### `acceptCommand` -/

@[simp] theorem acceptCommand_config (c : Word) (s : State) : (acceptCommand c s).config = s.config := rfl
@[simp] theorem acceptCommand_dp (c : Word) (s : State) : (acceptCommand c s).dp = s.dp := rfl
@[simp] theorem acceptCommand_hash (c : Word) (s : State) : (acceptCommand c s).hash = s.hash := rfl
@[simp] theorem acceptCommand_hashActive (c : Word) (s : State) : (acceptCommand c s).hashActive = s.hashActive := rfl
@[simp] theorem acceptCommand_busy (c : Word) (s : State) : (acceptCommand c s).busy = true := rfl
@[simp] theorem acceptCommand_done (c : Word) (s : State) : (acceptCommand c s).done = false := rfl
@[simp] theorem acceptCommand_err (c : Word) (s : State) : (acceptCommand c s).err = .none := rfl
@[simp] theorem acceptCommand_phase (c : Word) (s : State) : (acceptCommand c s).phase = .check := rfl
@[simp] theorem acceptCommand_cmd (c : Word) (s : State) : (acceptCommand c s).cmd = c := rfl
@[simp] theorem acceptCommand_ops (c : Word) (s : State) : (acceptCommand c s).ops = s.ops := rfl
@[simp] theorem acceptCommand_outLen (c : Word) (s : State) : (acceptCommand c s).outLen = s.outLen := rfl
@[simp] theorem acceptCommand_mem (c : Word) (s : State) : (acceptCommand c s).mem = s.mem := rfl
@[simp] theorem acceptCommand_schedule (c : Word) (s : State) : (acceptCommand c s).schedule = s.schedule := rfl
@[simp] theorem acceptCommand_replies (c : Word) (s : State) : (acceptCommand c s).replies = s.replies := rfl

/-! ### `epilogue` -/

@[simp] theorem epilogue_config (e : Err) (n : Nat) (s : State) : (epilogue e n s).config = s.config := rfl
@[simp] theorem epilogue_dp (e : Err) (n : Nat) (s : State) : (epilogue e n s).dp = Datapath.zero := rfl
@[simp] theorem epilogue_hash (e : Err) (n : Nat) (s : State) : (epilogue e n s).hash = s.hash := rfl
@[simp] theorem epilogue_hashActive (e : Err) (n : Nat) (s : State) : (epilogue e n s).hashActive = s.hashActive := rfl
@[simp] theorem epilogue_busy (e : Err) (n : Nat) (s : State) : (epilogue e n s).busy = false := rfl
@[simp] theorem epilogue_done (e : Err) (n : Nat) (s : State) : (epilogue e n s).done = true := rfl
@[simp] theorem epilogue_err (e : Err) (n : Nat) (s : State) : (epilogue e n s).err = e := rfl
@[simp] theorem epilogue_phase (e : Err) (n : Nat) (s : State) : (epilogue e n s).phase = .idle := rfl
@[simp] theorem epilogue_cmd (e : Err) (n : Nat) (s : State) : (epilogue e n s).cmd = s.cmd := rfl
@[simp] theorem epilogue_ops (e : Err) (n : Nat) (s : State) : (epilogue e n s).ops = s.ops := rfl
@[simp] theorem epilogue_outLen (e : Err) (n : Nat) (s : State) : (epilogue e n s).outLen = if e = .none then outLenWord n else 0 := rfl
@[simp] theorem epilogue_mem (e : Err) (n : Nat) (s : State) : (epilogue e n s).mem = s.mem := rfl
@[simp] theorem epilogue_schedule (e : Err) (n : Nat) (s : State) : (epilogue e n s).schedule = s.schedule := rfl
@[simp] theorem epilogue_replies (e : Err) (n : Nat) (s : State) : (epilogue e n s).replies = s.replies := rfl

/-! ### `complete` -/

@[simp] theorem complete_config (n : Nat) (s : State) : (complete n s).config = s.config := rfl
@[simp] theorem complete_dp (n : Nat) (s : State) : (complete n s).dp = Datapath.zero := rfl
@[simp] theorem complete_hash (n : Nat) (s : State) : (complete n s).hash = s.hash := rfl
@[simp] theorem complete_hashActive (n : Nat) (s : State) : (complete n s).hashActive = s.hashActive := rfl
@[simp] theorem complete_busy (n : Nat) (s : State) : (complete n s).busy = false := rfl
@[simp] theorem complete_done (n : Nat) (s : State) : (complete n s).done = true := rfl
@[simp] theorem complete_err (n : Nat) (s : State) : (complete n s).err = .none := rfl
@[simp] theorem complete_phase (n : Nat) (s : State) : (complete n s).phase = .idle := rfl
@[simp] theorem complete_cmd (n : Nat) (s : State) : (complete n s).cmd = s.cmd := rfl
@[simp] theorem complete_ops (n : Nat) (s : State) : (complete n s).ops = s.ops := rfl
@[simp] theorem complete_outLen (n : Nat) (s : State) : (complete n s).outLen = outLenWord n := rfl
@[simp] theorem complete_mem (n : Nat) (s : State) : (complete n s).mem = s.mem := rfl
@[simp] theorem complete_schedule (n : Nat) (s : State) : (complete n s).schedule = s.schedule := rfl
@[simp] theorem complete_replies (n : Nat) (s : State) : (complete n s).replies = s.replies := rfl

/-! ### `raise` -/

@[simp] theorem raise_config (e : Err) (s : State) : (raise e s).config = s.config := rfl
@[simp] theorem raise_dp (e : Err) (s : State) : (raise e s).dp = Datapath.zero := rfl
@[simp] theorem raise_hash (e : Err) (s : State) : (raise e s).hash = s.hash := rfl
@[simp] theorem raise_hashActive (e : Err) (s : State) : (raise e s).hashActive = s.hashActive := rfl
@[simp] theorem raise_busy (e : Err) (s : State) : (raise e s).busy = false := rfl
@[simp] theorem raise_done (e : Err) (s : State) : (raise e s).done = true := rfl
@[simp] theorem raise_err (e : Err) (s : State) : (raise e s).err = e := rfl
@[simp] theorem raise_phase (e : Err) (s : State) : (raise e s).phase = .idle := rfl
@[simp] theorem raise_cmd (e : Err) (s : State) : (raise e s).cmd = s.cmd := rfl
@[simp] theorem raise_ops (e : Err) (s : State) : (raise e s).ops = s.ops := rfl
@[simp] theorem raise_mem (e : Err) (s : State) : (raise e s).mem = s.mem := rfl
@[simp] theorem raise_schedule (e : Err) (s : State) : (raise e s).schedule = s.schedule := rfl
@[simp] theorem raise_replies (e : Err) (s : State) : (raise e s).replies = s.replies := rfl

/-- R306: whatever the error, `OUT_LEN` is 0. -/
@[simp] theorem raise_outLen (e : Err) (s : State) : (raise e s).outLen = 0 := by cases e <;> rfl

/-! ### `illegalCommand` -/

@[simp] theorem illegalCommand_config (s : State) : (illegalCommand s).config = s.config := rfl
@[simp] theorem illegalCommand_dp (s : State) : (illegalCommand s).dp = Datapath.zero := rfl
@[simp] theorem illegalCommand_hash (s : State) : (illegalCommand s).hash = s.hash := rfl
@[simp] theorem illegalCommand_hashActive (s : State) : (illegalCommand s).hashActive = s.hashActive := rfl
@[simp] theorem illegalCommand_busy (s : State) : (illegalCommand s).busy = false := rfl
@[simp] theorem illegalCommand_done (s : State) : (illegalCommand s).done = true := rfl
@[simp] theorem illegalCommand_err (s : State) : (illegalCommand s).err = .cmdErr := rfl
@[simp] theorem illegalCommand_phase (s : State) : (illegalCommand s).phase = .idle := rfl
@[simp] theorem illegalCommand_cmd (s : State) : (illegalCommand s).cmd = s.cmd := rfl
@[simp] theorem illegalCommand_ops (s : State) : (illegalCommand s).ops = s.ops := rfl
@[simp] theorem illegalCommand_outLen (s : State) : (illegalCommand s).outLen = 0 := rfl
@[simp] theorem illegalCommand_mem (s : State) : (illegalCommand s).mem = s.mem := rfl
@[simp] theorem illegalCommand_schedule (s : State) : (illegalCommand s).schedule = s.schedule := rfl
@[simp] theorem illegalCommand_replies (s : State) : (illegalCommand s).replies = s.replies := rfl

/-! ### `writeBack` -/

@[simp] theorem writeBack_config (s : State) (a : Nat) (b : List Byte) : (writeBack s a b).config = s.config := rfl
@[simp] theorem writeBack_dp (s : State) (a : Nat) (b : List Byte) : (writeBack s a b).dp = s.dp := rfl
@[simp] theorem writeBack_hash (s : State) (a : Nat) (b : List Byte) : (writeBack s a b).hash = s.hash := rfl
@[simp] theorem writeBack_hashActive (s : State) (a : Nat) (b : List Byte) : (writeBack s a b).hashActive = s.hashActive := rfl
@[simp] theorem writeBack_busy (s : State) (a : Nat) (b : List Byte) : (writeBack s a b).busy = s.busy := rfl
@[simp] theorem writeBack_done (s : State) (a : Nat) (b : List Byte) : (writeBack s a b).done = s.done := rfl
@[simp] theorem writeBack_err (s : State) (a : Nat) (b : List Byte) : (writeBack s a b).err = s.err := rfl
@[simp] theorem writeBack_phase (s : State) (a : Nat) (b : List Byte) : (writeBack s a b).phase = s.phase := rfl
@[simp] theorem writeBack_cmd (s : State) (a : Nat) (b : List Byte) : (writeBack s a b).cmd = s.cmd := rfl
@[simp] theorem writeBack_ops (s : State) (a : Nat) (b : List Byte) : (writeBack s a b).ops = s.ops := rfl
@[simp] theorem writeBack_outLen (s : State) (a : Nat) (b : List Byte) : (writeBack s a b).outLen = s.outLen := rfl
@[simp] theorem writeBack_mem (s : State) (a : Nat) (b : List Byte) : (writeBack s a b).mem = memWrite s.mem a b := rfl
@[simp] theorem writeBack_schedule (s : State) (a : Nat) (b : List Byte) : (writeBack s a b).schedule = s.schedule := rfl
@[simp] theorem writeBack_replies (s : State) (a : Nat) (b : List Byte) : (writeBack s a b).replies = s.replies := rfl

/-! ### `withEngine` -/

@[simp] theorem withEngine_config (s : State) (e : Engine) : (withEngine s e).config = s.config := rfl
@[simp] theorem withEngine_dp (s : State) (e : Engine) : (withEngine s e).dp = e.toDatapath := rfl
@[simp] theorem withEngine_hash (s : State) (e : Engine) : (withEngine s e).hash = s.hash := rfl
@[simp] theorem withEngine_hashActive (s : State) (e : Engine) : (withEngine s e).hashActive = s.hashActive := rfl
@[simp] theorem withEngine_busy (s : State) (e : Engine) : (withEngine s e).busy = s.busy := rfl
@[simp] theorem withEngine_done (s : State) (e : Engine) : (withEngine s e).done = s.done := rfl
@[simp] theorem withEngine_err (s : State) (e : Engine) : (withEngine s e).err = s.err := rfl
@[simp] theorem withEngine_phase (s : State) (e : Engine) : (withEngine s e).phase = s.phase := rfl
@[simp] theorem withEngine_cmd (s : State) (e : Engine) : (withEngine s e).cmd = s.cmd := rfl
@[simp] theorem withEngine_ops (s : State) (e : Engine) : (withEngine s e).ops = s.ops := rfl
@[simp] theorem withEngine_outLen (s : State) (e : Engine) : (withEngine s e).outLen = s.outLen := rfl
@[simp] theorem withEngine_mem (s : State) (e : Engine) : (withEngine s e).mem = s.mem := rfl
@[simp] theorem withEngine_schedule (s : State) (e : Engine) : (withEngine s e).schedule = s.schedule := rfl
@[simp] theorem withEngine_replies (s : State) (e : Engine) : (withEngine s e).replies = s.replies := rfl

/-! ### `giveReply` -/

@[simp] theorem giveReply_config (r : Reply) (s : State) : (giveReply r s).config = s.config := rfl
@[simp] theorem giveReply_dp (r : Reply) (s : State) : (giveReply r s).dp = s.dp := rfl
@[simp] theorem giveReply_hash (r : Reply) (s : State) : (giveReply r s).hash = s.hash := rfl
@[simp] theorem giveReply_hashActive (r : Reply) (s : State) : (giveReply r s).hashActive = s.hashActive := rfl
@[simp] theorem giveReply_busy (r : Reply) (s : State) : (giveReply r s).busy = s.busy := rfl
@[simp] theorem giveReply_done (r : Reply) (s : State) : (giveReply r s).done = s.done := rfl
@[simp] theorem giveReply_err (r : Reply) (s : State) : (giveReply r s).err = s.err := rfl
@[simp] theorem giveReply_phase (r : Reply) (s : State) : (giveReply r s).phase = s.phase := rfl
@[simp] theorem giveReply_cmd (r : Reply) (s : State) : (giveReply r s).cmd = s.cmd := rfl
@[simp] theorem giveReply_ops (r : Reply) (s : State) : (giveReply r s).ops = s.ops := rfl
@[simp] theorem giveReply_outLen (r : Reply) (s : State) : (giveReply r s).outLen = s.outLen := rfl
@[simp] theorem giveReply_mem (r : Reply) (s : State) : (giveReply r s).mem = s.mem := rfl
@[simp] theorem giveReply_schedule (r : Reply) (s : State) : (giveReply r s).schedule = s.schedule := rfl
@[simp] theorem giveReply_replies (r : Reply) (s : State) : (giveReply r s).replies = s.replies ++ [r] := rfl

/-! ### `resetEvent` -/

@[simp] theorem resetEvent_config (s : State) : (resetEvent s).config = s.config := rfl
@[simp] theorem resetEvent_dp (s : State) : (resetEvent s).dp = Datapath.zero := rfl
@[simp] theorem resetEvent_hash (s : State) : (resetEvent s).hash = HashRegs.zero := rfl
@[simp] theorem resetEvent_hashActive (s : State) : (resetEvent s).hashActive = false := rfl
@[simp] theorem resetEvent_busy (s : State) : (resetEvent s).busy = false := rfl
@[simp] theorem resetEvent_done (s : State) : (resetEvent s).done = false := rfl
@[simp] theorem resetEvent_err (s : State) : (resetEvent s).err = .none := rfl
@[simp] theorem resetEvent_phase (s : State) : (resetEvent s).phase = .idle := rfl
@[simp] theorem resetEvent_cmd (s : State) : (resetEvent s).cmd = 0 := rfl
@[simp] theorem resetEvent_ops (s : State) : (resetEvent s).ops = Operands.zero := rfl
@[simp] theorem resetEvent_outLen (s : State) : (resetEvent s).outLen = 0 := rfl
@[simp] theorem resetEvent_mem (s : State) : (resetEvent s).mem = s.mem := rfl
@[simp] theorem resetEvent_schedule (s : State) : (resetEvent s).schedule = s.schedule := rfl
@[simp] theorem resetEvent_replies (s : State) : (resetEvent s).replies = s.replies := rfl

/-! ### `State.resetWith` -/

@[simp] theorem State.resetWith_config (c : Config) : (State.resetWith c).config = c := rfl
@[simp] theorem State.resetWith_dp (c : Config) : (State.resetWith c).dp = Datapath.zero := rfl
@[simp] theorem State.resetWith_hash (c : Config) : (State.resetWith c).hash = HashRegs.zero := rfl
@[simp] theorem State.resetWith_hashActive (c : Config) : (State.resetWith c).hashActive = false := rfl
@[simp] theorem State.resetWith_busy (c : Config) : (State.resetWith c).busy = false := rfl
@[simp] theorem State.resetWith_done (c : Config) : (State.resetWith c).done = false := rfl
@[simp] theorem State.resetWith_err (c : Config) : (State.resetWith c).err = .none := rfl
@[simp] theorem State.resetWith_phase (c : Config) : (State.resetWith c).phase = .idle := rfl
@[simp] theorem State.resetWith_cmd (c : Config) : (State.resetWith c).cmd = 0 := rfl
@[simp] theorem State.resetWith_ops (c : Config) : (State.resetWith c).ops = Operands.zero := rfl
@[simp] theorem State.resetWith_outLen (c : Config) : (State.resetWith c).outLen = 0 := rfl
@[simp] theorem State.resetWith_mem (c : Config) : (State.resetWith c).mem = [] := rfl
@[simp] theorem State.resetWith_schedule (c : Config) : (State.resetWith c).schedule = [] := rfl
@[simp] theorem State.resetWith_replies (c : Config) : (State.resetWith c).replies = [] := rfl

/-! ### `startEngine` -/

@[simp] theorem startEngine_s (s : State) : (startEngine s).s = s.dp.s := rfl
@[simp] theorem startEngine_k (s : State) : (startEngine s).k = s.dp.k := rfl
@[simp] theorem startEngine_kw (s : State) : (startEngine s).kw = s.dp.kw := rfl
@[simp] theorem startEngine_t (s : State) : (startEngine s).t = s.dp.t := rfl
@[simp] theorem startEngine_n2 (s : State) : (startEngine s).n2 = s.dp.n2 := rfl
@[simp] theorem startEngine_work (s : State) : (startEngine s).work = 0 := rfl
@[simp] theorem startEngine_trail (s : State) : (startEngine s).trail = [.check] := rfl

/-! ### `enterPhase` -/

@[simp] theorem enterPhase_s (p : Phase) (e : Engine) : (enterPhase p e).s = e.s := rfl
@[simp] theorem enterPhase_k (p : Phase) (e : Engine) : (enterPhase p e).k = e.k := rfl
@[simp] theorem enterPhase_kw (p : Phase) (e : Engine) : (enterPhase p e).kw = e.kw := rfl
@[simp] theorem enterPhase_t (p : Phase) (e : Engine) : (enterPhase p e).t = e.t := rfl
@[simp] theorem enterPhase_n2 (p : Phase) (e : Engine) : (enterPhase p e).n2 = e.n2 := rfl
@[simp] theorem enterPhase_work (p : Phase) (e : Engine) : (enterPhase p e).work = e.work := rfl
@[simp] theorem enterPhase_trail (p : Phase) (e : Engine) : (enterPhase p e).trail = e.trail ++ [p] := rfl

/-! ### `loadKey` -/

@[simp] theorem loadKey_s (key : List Byte) (e : Engine) : (loadKey key e).s = e.s := rfl
@[simp] theorem loadKey_k (key : List Byte) (e : Engine) : (loadKey key e).k = keySchedule key := rfl
@[simp] theorem loadKey_kw (key : List Byte) (e : Engine) : (loadKey key e).kw = key.length / 4 := rfl
@[simp] theorem loadKey_t (key : List Byte) (e : Engine) : (loadKey key e).t = e.t := rfl
@[simp] theorem loadKey_n2 (key : List Byte) (e : Engine) : (loadKey key e).n2 = e.n2 := rfl
@[simp] theorem loadKey_work (key : List Byte) (e : Engine) : (loadKey key e).work = e.work := rfl
@[simp] theorem loadKey_trail (key : List Byte) (e : Engine) : (loadKey key e).trail = e.trail := rfl

/-! ### `loadState` -/

@[simp] theorem loadState_s (p : List Byte) (e : Engine) : (loadState p e).s = quadOfBytes p := rfl
@[simp] theorem loadState_k (p : List Byte) (e : Engine) : (loadState p e).k = e.k := rfl
@[simp] theorem loadState_kw (p : List Byte) (e : Engine) : (loadState p e).kw = e.kw := rfl
@[simp] theorem loadState_t (p : List Byte) (e : Engine) : (loadState p e).t = e.t := rfl
@[simp] theorem loadState_n2 (p : List Byte) (e : Engine) : (loadState p e).n2 = e.n2 := rfl
@[simp] theorem loadState_work (p : List Byte) (e : Engine) : (loadState p e).work = e.work := rfl
@[simp] theorem loadState_trail (p : List Byte) (e : Engine) : (loadState p e).trail = e.trail := rfl

/-! ### `runPermute` -/

@[simp] theorem runPermute_s (rounds : Nat) (e : Engine) : (runPermute rounds e).s = permute e.s e.k e.kw rounds := rfl
@[simp] theorem runPermute_k (rounds : Nat) (e : Engine) : (runPermute rounds e).k = e.k := rfl
@[simp] theorem runPermute_kw (rounds : Nat) (e : Engine) : (runPermute rounds e).kw = e.kw := rfl
@[simp] theorem runPermute_t (rounds : Nat) (e : Engine) : (runPermute rounds e).t = e.t := rfl
@[simp] theorem runPermute_n2 (rounds : Nat) (e : Engine) : (runPermute rounds e).n2 = e.n2 := rfl
@[simp] theorem runPermute_work (rounds : Nat) (e : Engine) : (runPermute rounds e).work = e.work + rounds := rfl
@[simp] theorem runPermute_trail (rounds : Nat) (e : Engine) : (runPermute rounds e).trail = e.trail := rfl

/-! ### `initState` -/

@[simp] theorem initState_s (e : Engine) : (initState e).s = Quad.zero := rfl
@[simp] theorem initState_k (e : Engine) : (initState e).k = e.k := rfl
@[simp] theorem initState_kw (e : Engine) : (initState e).kw = e.kw := rfl
@[simp] theorem initState_t (e : Engine) : (initState e).t = e.t := rfl
@[simp] theorem initState_n2 (e : Engine) : (initState e).n2 = e.n2 := rfl
@[simp] theorem initState_work (e : Engine) : (initState e).work = e.work := rfl
@[simp] theorem initState_trail (e : Engine) : (initState e).trail = e.trail := rfl

/-! ### `addDomain` -/

@[simp] theorem addDomain_s (d : Byte) (e : Engine) : (addDomain d e).s = ⟨e.s.w0, e.s.w1 ^^^ d.setWidth 32, e.s.w2, e.s.w3⟩ := rfl
@[simp] theorem addDomain_k (d : Byte) (e : Engine) : (addDomain d e).k = e.k := rfl
@[simp] theorem addDomain_kw (d : Byte) (e : Engine) : (addDomain d e).kw = e.kw := rfl
@[simp] theorem addDomain_t (d : Byte) (e : Engine) : (addDomain d e).t = e.t := rfl
@[simp] theorem addDomain_n2 (d : Byte) (e : Engine) : (addDomain d e).n2 = e.n2 := rfl
@[simp] theorem addDomain_work (d : Byte) (e : Engine) : (addDomain d e).work = e.work := rfl
@[simp] theorem addDomain_trail (d : Byte) (e : Engine) : (addDomain d e).trail = e.trail := rfl

/-! ### `absorbWord` -/

@[simp] theorem absorbWord_s (w : Word) (e : Engine) : (absorbWord w e).s = ⟨e.s.w0, e.s.w1, e.s.w2, e.s.w3 ^^^ w⟩ := rfl
@[simp] theorem absorbWord_k (w : Word) (e : Engine) : (absorbWord w e).k = e.k := rfl
@[simp] theorem absorbWord_kw (w : Word) (e : Engine) : (absorbWord w e).kw = e.kw := rfl
@[simp] theorem absorbWord_t (w : Word) (e : Engine) : (absorbWord w e).t = e.t := rfl
@[simp] theorem absorbWord_n2 (w : Word) (e : Engine) : (absorbWord w e).n2 = e.n2 := rfl
@[simp] theorem absorbWord_work (w : Word) (e : Engine) : (absorbWord w e).work = e.work := rfl
@[simp] theorem absorbWord_trail (w : Word) (e : Engine) : (absorbWord w e).trail = e.trail := rfl

/-! ### `sivRekey` -/

@[simp] theorem sivRekey_s (nonce tag : List Byte) (e : Engine) : (sivRekey nonce tag e).s = e.s := rfl
@[simp] theorem sivRekey_k (nonce tag : List Byte) (e : Engine) : (sivRekey nonce tag e).k = e.k := rfl
@[simp] theorem sivRekey_kw (nonce tag : List Byte) (e : Engine) : (sivRekey nonce tag e).kw = e.kw := rfl
@[simp] theorem sivRekey_t (nonce tag : List Byte) (e : Engine) : (sivRekey nonce tag e).t = e.t := rfl
@[simp] theorem sivRekey_n2 (nonce tag : List Byte) (e : Engine) : (sivRekey nonce tag e).n2 = ⟨le32 nonce 0, le32 tag 0, le32 tag 4⟩ := rfl
@[simp] theorem sivRekey_work (nonce tag : List Byte) (e : Engine) : (sivRekey nonce tag e).work = e.work := rfl
@[simp] theorem sivRekey_trail (nonce tag : List Byte) (e : Engine) : (sivRekey nonce tag e).trail = e.trail ++ [.rekey] := rfl

end Sys2Proof.Machine
end

