-- ==== Sys2Proof/Laws/Memory.lean ====
section
/-! SUPPORT. What the operations over MEM do: a byte written is the byte read, every other byte stays, and each operation keeps
the canonical form and the bound on addresses. -/

namespace Sys2Proof.Machine

/-! ### Reading after writing -/

theorem memGet_memPut (m : Memory) (a x : Nat) (v : Byte) :
    memGet (memPut m a v) x = if x = a then some v else memGet m x := by
  induction m with
  | nil => simp only [memPut, memGet, eq_comm]
  | cons c rest ih =>
    obtain ⟨k, w⟩ := c
    simp only [memPut]
    split
    · simp only [memGet, eq_comm (a := a) (b := x)]
    · split
      · next hne heq =>
        subst heq
        simp only [memGet, eq_comm (a := a) (b := x)]
        split <;> rfl
      · next h1 h2 =>
        simp only [memGet, ih]
        by_cases hk : k = x
        · subst hk; simp [Ne.symm h2]
        · simp [hk]

theorem memPut_wf (m : Memory) (a : Nat) (v : Byte) (h : Memory.wf m = true) : Memory.wf (memPut m a v) = true := by
  induction m with
  | nil => rfl
  | cons c rest ih =>
    obtain ⟨k, w⟩ := c
    simp only [memPut]
    split
    · next hlt => simp [Memory.wf, hlt, h]
    · split
      · next h1 heq =>
        subst heq
        cases rest with
        | nil => rfl
        | cons d r => simpa [Memory.wf] using h
      · next h1 h2 =>
        have hk : k < a := by omega
        cases rest with
        | nil => simp [memPut, Memory.wf, hk]
        | cons d r =>
          obtain ⟨k', w'⟩ := d
          simp only [Memory.wf, Bool.and_eq_true, decide_eq_true_eq] at h
          have ih' := ih h.2
          simp only [memPut] at ih' ⊢
          split
          · next hlt => simp [Memory.wf, hk, hlt, h.2]
          · split
            · next hne heq =>
              rw [if_neg hne, if_pos heq] at ih'
              subst heq
              rw [Memory.wf, ih']; simp [hk]
            · next hne hne' =>
              rw [if_neg hne, if_neg hne'] at ih'
              rw [Memory.wf, ih']; simp [h.1]

theorem memWrite_wf (m : Memory) (a : Nat) (vs : List Byte) (h : Memory.wf m = true) :
    Memory.wf (memWrite m a vs) = true := by
  induction vs generalizing m a with
  | nil => exact h
  | cons v vs ih => exact ih _ _ (memPut_wf m a v h)

theorem reset_mem_wf (c : Config) : Memory.wf (State.resetWith c).mem = true := rfl

/-- R67: a byte inside the written ones reads as written, every other byte as before. -/
theorem memByte_memWrite (m : Memory) (a x : Nat) (vs : List Byte) :
    memByte (memWrite m a vs) x = if a ≤ x ∧ x < a + vs.length then vs.getD (x - a) 0 else memByte m x := by
  induction vs generalizing m a with
  | nil => simp only [memWrite, List.length_nil]; rw [if_neg (by omega)]
  | cons v vs ih =>
    rw [memWrite, ih, memByte, memGet_memPut]
    by_cases hx : x = a
    · subst hx
      rw [if_neg (by omega), if_pos rfl, if_pos (by simp)]
      simp
    · rw [if_neg hx]
      by_cases hr : a + 1 ≤ x ∧ x < a + 1 + vs.length
      · rw [if_pos hr, if_pos (by simp; omega)]
        have : x - a = (x - (a + 1)) + 1 := by omega
        rw [this, List.getD_cons_succ]
      · rw [if_neg hr, if_neg (by simp; omega), memByte]

/-! ### Byte strings of MEM -/

@[simp] theorem memRead_length (m : Memory) (a n : Nat) : (memRead m a n).length = n := by
  induction n generalizing a with
  | zero => rfl
  | succ n ih => simp [memRead, ih]

theorem memRead_getD (m : Memory) (a n i : Nat) (h : i < n) : (memRead m a n).getD i 0 = memByte m (a + i) := by
  induction n generalizing a i with
  | zero => omega
  | succ n ih =>
    cases i with
    | zero => simp [memRead]
    | succ i => rw [memRead, List.getD_cons_succ, ih _ _ (by omega)]; congr 1; omega

theorem memRead_add (m : Memory) (a n k : Nat) : memRead m a (n + k) = memRead m a n ++ memRead m (a + n) k := by
  induction n generalizing a with
  | zero => simp [memRead]
  | succ n ih => rw [Nat.succ_add, memRead, memRead, ih, List.cons_append]; congr 3; omega

/-- A string of MEM depends on its bytes only. -/
theorem memRead_congr (m m' : Memory) (a n : Nat) (h : ∀ x, a ≤ x → x < a + n → memByte m x = memByte m' x) :
    memRead m a n = memRead m' a n := by
  induction n generalizing a with
  | zero => rfl
  | succ n ih => rw [memRead, memRead, h a (by omega) (by omega), ih _ fun x h1 h2 => h x (by omega) (by omega)]

/-- R66 and R67: what is written is what is read. -/
theorem memRead_memWrite (m : Memory) (a : Nat) (vs : List Byte) :
    memRead (memWrite m a vs) a vs.length = vs := by
  apply List.ext_getElem
  · simp
  · intro i h1 h2
    have h3 : i < vs.length := h2
    have := memRead_getD (memWrite m a vs) a vs.length i h3
    rw [memByte_memWrite, if_pos (by omega)] at this
    simpa [List.getD_eq_getElem?_getD, h3] using this

/-! ### Addresses -/

theorem mem_memPut (m : Memory) (a : Nat) (v : Byte) (c : Host.Cell) (h : c ∈ memPut m a v) : c = (a, v) ∨ c ∈ m := by
  induction m with
  | nil => simpa [memPut] using h
  | cons d rest ih =>
    obtain ⟨k, w⟩ := d
    simp only [memPut] at h
    split at h
    · simpa using h
    · split at h
      · rcases List.mem_cons.1 h with rfl | h
        · exact .inl rfl
        · exact .inr (List.mem_cons_of_mem _ h)
      · rcases List.mem_cons.1 h with rfl | h
        · exact .inr (List.mem_cons_self ..)
        · exact (ih h).imp id (List.mem_cons_of_mem _)

/-- A write adds no address beyond its own bytes. -/
theorem mem_memWrite (m : Memory) (a : Nat) (vs : List Byte) (c : Host.Cell) (h : c ∈ memWrite m a vs) :
    (a ≤ c.1 ∧ c.1 < a + vs.length) ∨ c ∈ m := by
  induction vs generalizing m a with
  | nil => exact .inr h
  | cons v vs ih =>
    rcases ih _ _ h with ⟨h1, h2⟩ | h
    · exact .inl ⟨by omega, by simp; omega⟩
    · rcases mem_memPut _ _ _ _ h with rfl | h
      · exact .inl ⟨le_rfl, by simp⟩
      · exact .inr h

/-! ### Regions -/

/-- R68. -/
theorem regionValid_iff (c : Config) (r : Region) : regionValid c r = true ↔ r.len = 0 ∨ r.addr + r.len ≤ c.memSize := by
  simp [regionValid]

theorem regionsValid_cons (s : State) (r : Region) (rs : List Region) :
    regionsValid s (r :: rs) = true ↔ regionValid s.config r = true ∧ regionsValid s rs = true := by
  simp [regionsValid]

theorem regionsValid_nil (s : State) : regionsValid s [] = true := rfl

end Sys2Proof.Machine
end

