-- ==== Sys2Proof/Laws/Commands.lean ====
section
/-! SUPPORT. What each shared operation of the commands and of the Host's port can do, said once: if it answers a next state,
one of the named cases holds. Later proofs cite these and do not unfold the operation. -/

namespace Sys2Proof.Machine

/-- The three ways out of an encrypting command's frame are two: a region is invalid, or it runs (R188). -/
theorem execEncrypting_eq (f : EncryptFun) (ks : KeySize) (s : State) :
    execEncrypting f ks s = .next (if regionsValid s (modeRegions ks (s.ops.inLen.toNat + 8) s)
      then encryptEnd (encryptRun f ks s) s else raise .addrErr s) := by
  unfold execEncrypting; split <;> rfl

/-- A decrypting command is short, has an invalid region, or runs (R189, R253). -/
theorem execDecrypting_eq (f : DecryptFun) (ks : KeySize) (s : State) :
    execDecrypting f ks s = .next (if s.ops.inLen.toNat < 8 then raise .lenErr s
      else if regionsValid s (modeRegions ks (s.ops.inLen.toNat - 8) s) then decryptEnd (decryptRun f ks s) s
      else raise .addrErr s) := by
  unfold execDecrypting; split
  · rfl
  · split <;> rfl

/-- What a decrypting command leaves, by the result of its function (R189, R305). -/
theorem decryptEnd_cases (r : Decrypted × Engine) (s : State) :
    (∃ pt, r.1 = .plaintext pt ∧ decryptEnd r s =
      complete (s.ops.inLen.toNat - 8) (writeBack (withEngine s r.2) s.ops.outAddr.toNat pt)) ∨
    (r.1 = .authenticationFailure ∧ decryptEnd r s =
      raise .authFail (writeBack (withEngine s r.2) s.ops.outAddr.toNat (zeroBytes (s.ops.inLen.toNat - 8)))) ∨
    (r.1 = .lengthError ∧ decryptEnd r s = raise .lenErr (withEngine s r.2)) := by
  obtain ⟨d, e⟩ := r
  cases d with
  | plaintext pt => exact .inl ⟨pt, rfl, rfl⟩
  | authenticationFailure => exact .inr (.inl ⟨rfl, rfl⟩)
  | lengthError => exact .inr (.inr ⟨rfl, rfl⟩)

theorem execPerm_eq (ks : KeySize) (rounds : Nat) (s : State) :
    execPerm ks rounds s = .next (if regionsValid s (permRegions ks s) then permEnd (permRun ks rounds s) s
      else raise .addrErr s) := by
  unfold execPerm; split <;> rfl

theorem execHashUpdate_eq (s : State) :
    execHashUpdate s = .next (if s.hashActive = false then raise .seqErr s
      else if regionsValid s [inRegion s] then hashUpdateEnd (hashUpdateRun s) s else raise .addrErr s) := by
  unfold execHashUpdate
  cases s.hashActive
  · rfl
  · simp only [Bool.not_true, Bool.false_eq_true, if_false]; split <;> simp

theorem execHashFinal_eq (s : State) :
    execHashFinal s = .next (if s.hashActive = false then raise .seqErr s
      else if regionsValid s [outRegion 32 s] then
        digestEnd (hashFinalize (hashRounds s.config) (s.hash, startHash s)) s
      else raise .addrErr s) := by
  unfold execHashFinal
  cases s.hashActive
  · rfl
  · simp only [Bool.not_true, Bool.false_eq_true, if_false]; split <;> simp

theorem execHash_eq (s : State) :
    execHash s = .next (if regionsValid s [inRegion s, outRegion 32 s] then
        digestEnd (hashMessage (hashRounds s.config) (snapshot s (inRegion s)) (startHash s)) s
      else raise .addrErr s) := by
  unfold execHash; split <;> rfl

/-- What a move of the Host or the platform can answer (R34, R60, R76, R340). -/
theorem hostMove_next (m : Move) (s t : State) (h : hostMove m s = .next t) :
    (∃ offset v, m = .regWrite .word offset v ∧ t = regWrite offset v s) ∨
      (∃ offset, m = .regRead .word offset ∧ t = giveReply (.reg offset (regRead offset s)) s) ∨
      (∃ a bytes, m = .memWrite a bytes ∧ s.busy = false ∧ regionValid s.config ⟨a, bytes.length⟩ = true ∧
        t = writeBack s a bytes) ∨
      (∃ a n, m = .memRead a n ∧ s.busy = false ∧ t = giveReply (.mem a (snapshot s ⟨a, n⟩)) s) ∨
      (m = .wait ∧ t = s) ∨ (m = .reset ∧ t = resetEvent s) := by
  cases m with
  | regWrite width offset v =>
    simp only [hostMove, hostRegWrite] at h
    split at h
    · next hs =>
      simp only [registerShape, Bool.and_eq_true, beq_iff_eq] at hs
      obtain ⟨rfl, -⟩ := hs
      exact .inl ⟨offset, v, rfl, by cases h; rfl⟩
    · cases h
  | regRead width offset =>
    simp only [hostMove, hostRegRead] at h
    split at h
    · next hs =>
      simp only [registerShape, Bool.and_eq_true, beq_iff_eq] at hs
      obtain ⟨rfl, -⟩ := hs
      exact .inr (.inl ⟨offset, rfl, by cases h; rfl⟩)
    · cases h
  | memWrite a bytes =>
    simp only [hostMove, hostMemWrite] at h
    split at h
    · cases h
    · next hb =>
      split at h
      · next hv => exact .inr (.inr (.inl ⟨a, bytes, rfl, by simpa using hb, hv, by cases h; rfl⟩))
      · cases h
  | memRead a n =>
    simp only [hostMove, hostMemRead] at h
    split at h
    · cases h
    · next hb =>
      split at h
      · exact .inr (.inr (.inr (.inl ⟨a, n, rfl, by simpa using hb, by cases h; rfl⟩)))
      · cases h
  | wait => exact .inr (.inr (.inr (.inr (.inl ⟨rfl, by cases h; rfl⟩))))
  | reset => exact .inr (.inr (.inr (.inr (.inr ⟨rfl, by cases h; rfl⟩))))

/-- What a step can be (log 4): the Core's turn or the Host's. -/
theorem step_cases (s t : State) (h : step s = .next t) :
    (coresTurn s = true ∧ s.busy = true ∧ ((∃ i, decode s.cmd = .ok i ∧ exec i s = .next t) ∨
      ((∃ e, decode s.cmd = .error e) ∧ t = illegalCommand s))) ∨
    (coresTurn s = true ∧ s.busy = false ∧ t = s) ∨
    (coresTurn s = false ∧ ∃ m rest, s.schedule = m :: rest ∧ hostMove m { s with schedule := rest } = .next t) := by
  unfold step at h
  split at h
  · next hc =>
    unfold coreTurn at h
    split at h
    · next hb =>
      split at h
      · next i hd => exact .inl ⟨hc, hb, .inl ⟨i, hd, h⟩⟩
      · next e hd => exact .inl ⟨hc, hb, .inr ⟨⟨e, hd⟩, by cases h; rfl⟩⟩
    · next hb => exact .inr (.inl ⟨hc, by simpa using hb, by cases h; rfl⟩)
  · next hc =>
    have hc' : coresTurn s = false := by simpa using hc
    unfold hostTurn at h
    split at h
    · next hs => simp [coresTurn, hs] at hc'
    · next m rest hs => exact .inr (.inr ⟨hc', m, rest, hs, h⟩)

end Sys2Proof.Machine
end

