-- ==== Sys2Proof/Laws/PerInstr.lean ====
section
/-! SUPPORT. Facts that hold of every command, one lemma per constructor of Instr. -/

namespace Sys2Proof.Laws

/-- The row of the opcode table a command belongs to (30_encoding.md R95). -/
def rowOf : Instr → OpcodeRow
  | .nop => fixedRow 0x00000000
  | .clean => fixedRow 0x00000001
  | .perm128 _ => permRow 0x00000002
  | .perm192 _ => permRow 0x00000102
  | .perm256 _ => permRow 0x00000202
  | .aeadEnc128 => fixedRow 0x00000010
  | .aeadEnc192 => fixedRow 0x00000110
  | .aeadEnc256 => fixedRow 0x00000210
  | .aeadDec128 => fixedRow 0x00000011
  | .aeadDec192 => fixedRow 0x00000111
  | .aeadDec256 => fixedRow 0x00000211
  | .sivEnc128 => fixedRow 0x00000012
  | .sivEnc192 => fixedRow 0x00000112
  | .sivEnc256 => fixedRow 0x00000212
  | .sivDec128 => fixedRow 0x00000013
  | .sivDec192 => fixedRow 0x00000113
  | .sivDec256 => fixedRow 0x00000213
  | .hashInit => fixedRow 0x00000020
  | .hashUpdate => fixedRow 0x00000021
  | .hashFinal => fixedRow 0x00000022
  | .hash => fixedRow 0x00000023

/-- Masking a word to its low half keeps its value mod 2^16. -/
theorem commandOf_low (op ks rounds : Nat) (h : op + ks * 256 < 65536) :
    commandOf op ks rounds &&& 0x0000ffff = BitVec.ofNat 32 (op + ks * 256) := by
  apply BitVec.eq_of_toNat_eq
  have hm : ∀ n : Nat, n &&& 65535 = n % 65536 := fun n => Nat.and_two_pow_sub_one_eq_mod n 16
  simp only [commandOf, BitVec.toNat_and, BitVec.toNat_ofNat, BitVec.ofNat_eq_ofNat, Nat.reducePow, Nat.reduceMod, hm]
  omega

/-- The family: an encoded command lies in its row of the opcode table (R95: `(c & mask) == match`), and the row is one of the
table's. -/
abbrev EncodedInRow.Statement (i : Instr) : Prop := (rowOf i).covers (encode i) = true ∧ rowOf i ∈ opcodeTable

theorem EncodedInRow.nop : EncodedInRow.Statement .nop := by decide
theorem EncodedInRow.clean : EncodedInRow.Statement .clean := by decide
theorem EncodedInRow.perm128 (rounds : Nat) : EncodedInRow.Statement (.perm128 rounds) :=
  ⟨beq_iff_eq.2 (commandOf_low 0x02 0 rounds (by omega)), by simp only [rowOf]; decide⟩
theorem EncodedInRow.perm192 (rounds : Nat) : EncodedInRow.Statement (.perm192 rounds) :=
  ⟨beq_iff_eq.2 (commandOf_low 0x02 1 rounds (by omega)), by simp only [rowOf]; decide⟩
theorem EncodedInRow.perm256 (rounds : Nat) : EncodedInRow.Statement (.perm256 rounds) :=
  ⟨beq_iff_eq.2 (commandOf_low 0x02 2 rounds (by omega)), by simp only [rowOf]; decide⟩
theorem EncodedInRow.aeadEnc128 : EncodedInRow.Statement .aeadEnc128 := by decide
theorem EncodedInRow.aeadEnc192 : EncodedInRow.Statement .aeadEnc192 := by decide
theorem EncodedInRow.aeadEnc256 : EncodedInRow.Statement .aeadEnc256 := by decide
theorem EncodedInRow.aeadDec128 : EncodedInRow.Statement .aeadDec128 := by decide
theorem EncodedInRow.aeadDec192 : EncodedInRow.Statement .aeadDec192 := by decide
theorem EncodedInRow.aeadDec256 : EncodedInRow.Statement .aeadDec256 := by decide
theorem EncodedInRow.sivEnc128 : EncodedInRow.Statement .sivEnc128 := by decide
theorem EncodedInRow.sivEnc192 : EncodedInRow.Statement .sivEnc192 := by decide
theorem EncodedInRow.sivEnc256 : EncodedInRow.Statement .sivEnc256 := by decide
theorem EncodedInRow.sivDec128 : EncodedInRow.Statement .sivDec128 := by decide
theorem EncodedInRow.sivDec192 : EncodedInRow.Statement .sivDec192 := by decide
theorem EncodedInRow.sivDec256 : EncodedInRow.Statement .sivDec256 := by decide
theorem EncodedInRow.hashInit : EncodedInRow.Statement .hashInit := by decide
theorem EncodedInRow.hashUpdate : EncodedInRow.Statement .hashUpdate := by decide
theorem EncodedInRow.hashFinal : EncodedInRow.Statement .hashFinal := by decide
theorem EncodedInRow.hash : EncodedInRow.Statement .hash := by decide

end Sys2Proof.Laws
end

