-- ==== Sys2Proof/Laws/Sponge.lean ====
section
/-! SUPPORT. What the shared operations over the engine do: the cases of `absorb`, what each operation keeps, and that the
operations read `S`, `K`, `KW` (and `N2`) and nothing else, so that what else an engine holds does not matter. -/

namespace Sys2Proof.Machine

/-! ### The cases of `absorb` (R155 to R157) -/

theorem absorb_nil (d : Byte) (rounds : Nat) (e : Engine) : absorb d rounds [] e = e := rfl

theorem absorb_group (d : Byte) (rounds : Nat) (b0 b1 b2 b3 : Byte) (rest : List Byte) (e : Engine) :
    absorb d rounds (b0 :: b1 :: b2 :: b3 :: rest) e =
      absorb d rounds rest (absorbWord (le32 [b0, b1, b2, b3] 0) (runPermute rounds (addDomain d e))) := rfl

theorem absorb_tail (d : Byte) (rounds : Nat) (tail : List Byte) (e : Engine) (h0 : tail ≠ []) (h4 : tail.length < 4) :
    absorb d rounds tail e = absorbPartial d rounds tail e := by
  match tail, h0, h4 with
  | [_], _, _ => rfl
  | [_, _], _, _ => rfl
  | [_, _, _], _, _ => rfl

/-! ### What is kept -/

/-- Two engines agree on all the registers a sponge operation reads (R120, R150 to R153). -/
structure SameSponge (e e' : Engine) : Prop where
  s : e.s = e'.s
  k : e.k = e'.k
  kw : e.kw = e'.kw

/-- An operation left the key, the derived nonce and the phases alone. -/
structure KeepsKey (e e' : Engine) : Prop where
  k : e'.k = e.k
  kw : e'.kw = e.kw
  n2 : e'.n2 = e.n2
  trail : e'.trail = e.trail

theorem KeepsKey.trans {a b c : Engine} (h : KeepsKey a b) (h' : KeepsKey b c) : KeepsKey a c :=
  ⟨h'.k.trans h.k, h'.kw.trans h.kw, h'.n2.trans h.n2, h'.trail.trans h.trail⟩

theorem absorbGroup_keepsKey (d : Byte) (rounds : Nat) (w : Word) (e : Engine) :
    KeepsKey e (absorbWord w (runPermute rounds (addDomain d e))) := ⟨rfl, rfl, rfl, rfl⟩

theorem absorbPartial_keepsKey (d : Byte) (rounds : Nat) (tail : List Byte) (e : Engine) :
    KeepsKey e (absorbPartial d rounds tail e) := ⟨rfl, rfl, rfl, rfl⟩

theorem absorb_keepsKey (d : Byte) (rounds : Nat) (data : List Byte) (e : Engine) : KeepsKey e (absorb d rounds data e) := by
  induction data, e using absorb.induct d rounds with
  | case1 b0 b1 b2 b3 rest e ih => exact (absorbGroup_keepsKey d rounds _ e).trans ih
  | case2 e => exact ⟨rfl, rfl, rfl, rfl⟩
  | case3 tail e h0 h1 => rw [absorb.eq_3 d rounds tail e h0 h1]; exact absorbPartial_keepsKey d rounds tail e

theorem absorb_t (d : Byte) (rounds : Nat) (data : List Byte) (e : Engine) : (absorb d rounds data e).t = e.t := by
  induction data, e using absorb.induct d rounds with
  | case1 b0 b1 b2 b3 rest e ih => exact ih
  | case2 e => rfl
  | case3 tail e h0 h1 => rw [absorb.eq_3 d rounds tail e h0 h1]; rfl

theorem setup_keepsKey (rc : RoundCounts) (nonce : List Byte) (d : Byte) (e : Engine) : KeepsKey e (setup rc nonce d e) :=
  ⟨rfl, rfl, rfl, rfl⟩

theorem generateTag_keepsKey (rc : RoundCounts) (e : Engine) : KeepsKey e (generateTag rc e) := ⟨rfl, rfl, rfl, rfl⟩

/-! ### What is read -/

theorem runPermute_same (rounds : Nat) {e e' : Engine} (h : SameSponge e e') :
    SameSponge (runPermute rounds e) (runPermute rounds e') :=
  ⟨by simp only [runPermute_s, h.s, h.k, h.kw], h.k, h.kw⟩

theorem addDomain_same (d : Byte) {e e' : Engine} (h : SameSponge e e') : SameSponge (addDomain d e) (addDomain d e') :=
  ⟨by simp only [addDomain_s, h.s], h.k, h.kw⟩

theorem absorbWord_same (w : Word) {e e' : Engine} (h : SameSponge e e') : SameSponge (absorbWord w e) (absorbWord w e') :=
  ⟨by simp only [absorbWord_s, h.s], h.k, h.kw⟩

theorem squeezeWord_same {e e' : Engine} (h : SameSponge e e') : squeezeWord e = squeezeWord e' := by
  simp only [squeezeWord, h.s]

/-- `setup` reads the key only: it starts from the zero state (R154). -/
theorem setup_same (rc : RoundCounts) (nonce : List Byte) (d : Byte) {e e' : Engine} (hk : e.k = e'.k) (hw : e.kw = e'.kw) :
    SameSponge (setup rc nonce d e) (setup rc nonce d e') := by
  have h0 : SameSponge (initState e) (initState e') := ⟨rfl, hk, hw⟩
  have step {a b : Engine} (w : Word) (h : SameSponge a b) : SameSponge (setupNonceWord rc d w a) (setupNonceWord rc d w b) :=
    absorbWord_same w (runPermute_same _ (addDomain_same d h))
  exact step _ (step _ (step _ (runPermute_same _ h0)))

theorem absorbPartial_same (d : Byte) (rounds : Nat) (tail : List Byte) {e e' : Engine} (h : SameSponge e e') :
    SameSponge (absorbPartial d rounds tail e) (absorbPartial d rounds tail e') :=
  addDomain_same _ (absorbWord_same _ (runPermute_same _ (addDomain_same d h)))

theorem absorb_same (d : Byte) (rounds : Nat) (data : List Byte) {e e' : Engine} (h : SameSponge e e') :
    SameSponge (absorb d rounds data e) (absorb d rounds data e') := by
  induction data, e using absorb.induct d rounds generalizing e' with
  | case1 b0 b1 b2 b3 rest e ih => exact ih (absorbWord_same _ (runPermute_same _ (addDomain_same d h)))
  | case2 e => exact h
  | case3 tail e h0 h1 =>
    rw [absorb.eq_3 d rounds tail e h0 h1, absorb.eq_3 d rounds tail e' h0 h1]
    exact absorbPartial_same d rounds tail h

/-- The tag depends on `S`, `K` and `KW` (R158). -/
theorem generateTag_tagBytes_same (rc : RoundCounts) {e e' : Engine} (h : SameSponge e e') :
    tagBytes (generateTag rc e) = tagBytes (generateTag rc e') := by
  have h1 := runPermute_same rc.tag1 (addDomain_same domFinal h)
  have h2 : SameSponge { runPermute rc.tag1 (addDomain domFinal e) with
        t := { (runPermute rc.tag1 (addDomain domFinal e)).t with t0 := squeezeWord (runPermute rc.tag1 (addDomain domFinal e)) } }
      { runPermute rc.tag1 (addDomain domFinal e') with
        t := { (runPermute rc.tag1 (addDomain domFinal e')).t with t0 := squeezeWord (runPermute rc.tag1 (addDomain domFinal e')) } } :=
    ⟨h1.s, h1.k, h1.kw⟩
  have h3 := runPermute_same rc.tag2 (addDomain_same domFinal h2)
  exact congrArg₂ (fun a b => bytes32 a ++ bytes32 b) (squeezeWord_same h1) (squeezeWord_same h3)

/-- `Encrypt` loads all it reads (R231). -/
theorem hashEncrypt_fst (rounds : Nat) (kslot p : List Byte) (e : Engine) :
    (hashEncrypt rounds kslot p e).1 = quadBytes (permute (quadOfBytes p) (keySchedule kslot) (kslot.length / 4) rounds) := rfl

theorem compress_fst_same (rounds : Nat) (block : List Byte) (dom : Byte) (h : HashRegs) (e e' : Engine) :
    (compress rounds block dom h e).1 = (compress rounds block dom h e').1 := rfl

/-- The hash registers do not depend on the engine (R232, R234). -/
theorem hashUpdate_fst_same (rounds : Nat) (data : List Byte) (h : HashRegs) (e e' : Engine) :
    (hashUpdate rounds data (h, e)).1 = (hashUpdate rounds data (h, e')).1 := by
  have key : ∀ (data : List Byte) (p q : HashRegs × Engine), p.1 = q.1 →
      (data.foldl (hashByte rounds) p).1 = (data.foldl (hashByte rounds) q).1 := by
    intro data
    induction data with
    | nil => exact fun _ _ h => h
    | cons b bs ih =>
      intro p q h
      refine ih _ _ ?_
      obtain ⟨p1, p2⟩ := p
      obtain ⟨q1, q2⟩ := q
      cases h
      simp only [hashByte]
      split <;> rfl
  exact key data _ _ rfl

end Sys2Proof.Machine
end

