-- ==== Sys2Proof/Machine/HostLayers.lean ====
section
/-! DEFINITION. HMAC and HKDF (47_host_layers_informative.md R270, R273, R274): informative, host software over the hash and no
part of the Core (00_scope.md R4). No step uses this file (log 16). -/

namespace Sys2Proof.Machine

/-- `Hash(msg)` as a function (R236), run on cleared registers. -/
def hashDigest (rounds : Nat) (msg : List Byte) : List Byte :=
  (hashMessage rounds msg { Datapath.zero with work := 0, trail := [] }).1

/-- The 64-byte key block of HMAC (R270): a key longer than the block is hashed first. -/
def hmacKeyBlock (rounds : Nat) (key : List Byte) : List Byte :=
  if key.length > 64 then hashDigest rounds key ++ zeroBytes 32 else key ++ zeroBytes (64 - key.length)

/-- Every byte of a string XOR a mask. -/
def maskBytes (mask : Byte) (b : List Byte) : List Byte := b.map (· ^^^ mask)

/-- `hmac(key, msg)` (R270). -/
def hmac (rounds : Nat) (key msg : List Byte) : List Byte :=
  let k0 := hmacKeyBlock rounds key
  let inner := hashDigest rounds (maskBytes 0x36 k0 ++ msg)
  hashDigest rounds (maskBytes 0x5C k0 ++ inner)

/-- `extract` (R273): `PRK = HMAC(salt, key)`. -/
def hkdfExtract (rounds : Nat) (salt key : List Byte) : List Byte := hmac rounds salt key

/-- `T(i) ‖ T(i+1) ‖ ...`, `n` blocks, after the block `prev` (R273). -/
def hkdfBlocks (rounds : Nat) (prk info : List Byte) : Nat → Nat → List Byte → List Byte
  | 0, _, _ => []
  | n + 1, i, prev =>
    let t := hmac rounds prk (prev ++ info ++ [BitVec.ofNat 8 i])
    t ++ hkdfBlocks rounds prk info n (i + 1) t

/-- `expand` (R273, R274): none is `LengthError`, for more than `255 × 32` bytes. -/
def hkdfExpand (rounds : Nat) (prk info : List Byte) (outlen : Nat) : Option (List Byte) :=
  if outlen > 8160 then none else some ((hkdfBlocks rounds prk info ((outlen + 31) / 32) 1 []).take outlen)

/-- `hkdf(key, salt, info, outlen)` (R273). -/
def hkdf (rounds : Nat) (key salt info : List Byte) (outlen : Nat) : Option (List Byte) :=
  hkdfExpand rounds (hkdfExtract rounds salt key) info outlen

end Sys2Proof.Machine
end

