-- ==== Sys2Proof/Tests/Slice0.lean ====
section
/-! SUPPORT. The model's own tests. Expected values are those of 95_test_vectors.md (named beside each test) or are written out
from the rule named; the last part shows, for each statement that has hypotheses, a concrete input that meets them. -/

-- One theorem at a time: evaluated together, they would run past the memory limit of the check.
set_option Elab.async false

namespace Sys2Proof.Tests

open Sys2Proof.Machine Sys2Proof.Claims

/-! ### Well-formedness: an ill-formed term for each check (R93) -/

theorem test_wf_perm128_refuses_65536 : Instr.wellFormed (.perm128 65536) = false := by decide
theorem test_wf_perm192_refuses_65536 : Instr.wellFormed (.perm192 65536) = false := by decide
theorem test_wf_perm256_refuses_65536 : Instr.wellFormed (.perm256 65536) = false := by decide
theorem test_wf_perm_accepts_65535 : Instr.wellFormed (.perm192 65535) = true := by decide

/-! ### Decoding: a word of R95's table for every command -/

theorem test_decode_nop : decode 0x00000000 = .ok .nop := by rfl
theorem test_decode_clean : decode 0x00000001 = .ok .clean := by rfl
theorem test_decode_perm128 : decode 0x00080002 = .ok (.perm128 8) := by rfl
theorem test_decode_perm192 : decode 0x00050102 = .ok (.perm192 5) := by rfl
theorem test_decode_perm256 : decode 0x80030202 = .ok (.perm256 0x8003) := by rfl
theorem test_decode_aead_enc : decode 0x00000010 = .ok .aeadEnc128 ∧ decode 0x00000110 = .ok .aeadEnc192 ∧
    decode 0x00000210 = .ok .aeadEnc256 := ⟨rfl, rfl, rfl⟩
theorem test_decode_aead_dec : decode 0x00000011 = .ok .aeadDec128 ∧ decode 0x00000111 = .ok .aeadDec192 ∧
    decode 0x00000211 = .ok .aeadDec256 := ⟨rfl, rfl, rfl⟩
theorem test_decode_siv_enc : decode 0x00000012 = .ok .sivEnc128 ∧ decode 0x00000112 = .ok .sivEnc192 ∧
    decode 0x00000212 = .ok .sivEnc256 := ⟨rfl, rfl, rfl⟩
theorem test_decode_siv_dec : decode 0x00000013 = .ok .sivDec128 ∧ decode 0x00000113 = .ok .sivDec192 ∧
    decode 0x00000213 = .ok .sivDec256 := ⟨rfl, rfl, rfl⟩
theorem test_decode_hash : decode 0x00000020 = .ok .hashInit ∧ decode 0x00000021 = .ok .hashUpdate ∧
    decode 0x00000022 = .ok .hashFinal ∧ decode 0x00000023 = .ok .hash := ⟨rfl, rfl, rfl, rfl⟩
theorem test_encode_perm : encode (.perm256 0x8003) = 0x80030202 := by decide
theorem test_table_word : decodeTableWord 32 0x00000213 = some .sivDec256 ∧ decodeTableWord 32 0x00000313 = none := ⟨rfl, rfl⟩

/-! ### Illegal words (program P5, rows 1 to 7) -/

theorem test_illegal_op : decode 0x00000003 = .error .undefinedOperation := by rfl
theorem test_illegal_ks3 : decode 0x00000310 = .error .reservedKeySize := by rfl
theorem test_illegal_rsv : decode 0x00000410 = .error .reservedBitsSet := by rfl
theorem test_illegal_rounds : decode 0x00010010 = .error .roundsOnOtherCommand := by rfl
theorem test_illegal_ks_keyless : decode 0x00000120 = .error .keySizeOnKeylessCommand := by rfl
theorem test_illegal_clean_rounds : decode 0x00010001 = .error .roundsOnOtherCommand := by rfl
theorem test_illegal_all_ones : ∃ e, decode 0xffffffff = .error e := ⟨_, rfl⟩

/-! ### The datapath -/

/-- `n` bytes counting up from `a`. -/
def countUp (a n : Nat) : List Byte := (List.range n).map fun i => BitVec.ofNat 8 (a + i)

/-- The state words `00 01 .. 0f` of 95_test_vectors.md. -/
def quadS0 : Quad := ⟨0x03020100, 0x07060504, 0x0b0a0908, 0x0f0e0d0c⟩

/-- V3: the first of the 32 serial steps, and `steps32`. -/
theorem test_serial_step : serialStep (stateBits quadS0) false = stateBits ⟨0x01810080, 0x03830282, 0x05850484, 0x07870686⟩ := by
  decide
theorem test_steps32 : steps32 quadS0 0xccddeeff = ⟨0x07060504, 0x0b0a0908, 0x0f0e0d0c, 0x0c266072⟩ := by decide
/-- V5. -/
theorem test_key_schedule : keySchedule (countUp 0 24) =
    ⟨0xfcfdfeff, 0xf8f9fafb, 0xf4f5f6f7, 0xf0f1f2f3, 0xecedeeef, 0xe8e9eaeb, 0, 0⟩ := by decide
/-- V6, `K192`, two rounds: the key words wrap after six. -/
theorem test_key_cycle : permute quadS0 (keySchedule (countUp 0 24)) 6 2 = ⟨0x47184e34, 0x3c2798c2, 0x1ef6611c, 0xe5ca1f5a⟩ := by
  decide +kernel
/-- V8: a group of three bytes, from the end of `setup`. -/
theorem test_absorb_partial :
    (absorb 0x30 5 [0xaa, 0xbb, 0xcc] { Datapath.zero with
      s := ⟨0x88135e91, 0xec382d31, 0x82db6544, 0x1916c45f⟩, k := keySchedule (countUp 0 16), kw := 4, work := 0, trail := [] }).s =
    ⟨0xdbe0ab65, 0xa0f9b986, 0x9ce38c78, 0xd7d6d021⟩ := by decide +kernel

/-! ### The commands -/

/-- 1024 bytes of MEM, profile `DOC`, `K256` at 0, `N` at 0x30, `AD(5)` at 0x40, an input at 0x50, output to 0x80. -/
def bench (input : List Byte) : State :=
  { State.reset with
    mem := memWrite (memWrite (memWrite (memWrite [] 0 (countUp 0 32)) 0x30 (countUp 0 12)) 0x40 (countUp 0xa0 5)) 0x50 input
    ops := ⟨0, 0x30, 0x40, 5, 0x50, BitVec.ofNat 32 input.length, 0x80⟩ }

/-- What the step that runs the command word `w` leaves for the Host to read (R255): `STATUS`, `OUT_LEN`, and `n` bytes of MEM
from `a` on. -/
def outcome (w : Nat) (s : State) (a n : Nat) : Option (Word × Word × List Byte) :=
  match step (s.withFetchWord 32 w) with
  | .next t => some (statusWord t, t.outLen, memRead t.mem a n)
  | .fault _ => none
  | .refused _ => none

/-- R250. -/
theorem test_nop : outcome 0x00000000 (bench []) 0x30 1 = some (2, 0, [0]) := by decide +kernel
/-- P5, row 16. -/
theorem test_clean : outcome 0x00000001 { bench [] with hashActive := true } 0x30 1 = some (2, 0, [0]) := by decide +kernel
/-- V6, `K128`, 8 rounds. -/
theorem test_perm128 : outcome 0x00080002 (bench (countUp 0 16)) 0x80 16 =
    some (2, 16, quadBytes ⟨0x5d98ae1e, 0xe2830737, 0xadf7cca6, 0xa5eae9f8⟩) := by decide +kernel
/-- P1, continuation: 0 rounds copy the input. -/
theorem test_perm128_copies : outcome 0x00000002 (bench (countUp 0 16)) 0x80 16 = some (2, 16, countUp 0 16) := by decide +kernel
/-- P1, continuation. -/
theorem test_perm192 : outcome 0x00050102 (bench (countUp 0 16)) 0x80 16 =
    some (2, 16, [0x3f, 0xd9, 0x36, 0x88, 0x57, 0xa6, 0x14, 0x83, 0xac, 0xab, 0x10, 0x76, 0x54, 0xd4, 0x65, 0x21]) := by
  decide +kernel
/-- P1, continuation. -/
theorem test_perm256 : outcome 0x00030202 (bench (countUp 0 16)) 0x80 16 =
    some (2, 16, [0xe0, 0x50, 0xdf, 0x83, 0xee, 0x75, 0xb0, 0x35, 0x02, 0xfa, 0xdb, 0x67, 0xcc, 0x30, 0x92, 0x36]) := by
  decide +kernel
/-- P2. -/
theorem test_aead_enc128 : outcome 0x00000010 (bench (countUp 0x50 7)) 0x80 15 =
    some (2, 15, [0x82, 0xb3, 0x8f, 0x4d, 0xda, 0xb7, 0x26, 0x40, 0x2d, 0x6b, 0x18, 0x78, 0xc9, 0x53, 0x9e]) := by decide +kernel
/-- V10. -/
theorem test_aead_enc192 : outcome 0x00000110 (bench (countUp 0x50 7)) 0x80 15 =
    some (2, 15, [0x3d, 0x00, 0xd2, 0xdb, 0xfa, 0xec, 0x21, 0xfb, 0x59, 0xc4, 0x1a, 0x9a, 0x97, 0x4f, 0xee]) := by decide +kernel
/-- V10. -/
theorem test_aead_enc256 : outcome 0x00000210 (bench (countUp 0x50 7)) 0x80 15 =
    some (2, 15, [0x3a, 0x49, 0xf5, 0x01, 0xc0, 0x1d, 0x7a, 0xb7, 0x7e, 0x90, 0xc6, 0xa7, 0x97, 0x2c, 0x3e]) := by decide +kernel
/-- P2: decryption in place. -/
theorem test_aead_dec128 : outcome 0x00000011
    (bench [0x82, 0xb3, 0x8f, 0x4d, 0xda, 0xb7, 0x26, 0x40, 0x2d, 0x6b, 0x18, 0x78, 0xc9, 0x53, 0x9e]) 0x80 7 =
      some (2, 7, countUp 0x50 7) := by decide +kernel
/-- P2: a changed ciphertext byte; the output region is filled with zeros. -/
theorem test_aead_dec128_tampered : outcome 0x00000011
    (bench [0x83, 0xb3, 0x8f, 0x4d, 0xda, 0xb7, 0x26, 0x40, 0x2d, 0x6b, 0x18, 0x78, 0xc9, 0x53, 0x9e]) 0x80 7 =
      some (0x502, 0, [0, 0, 0, 0, 0, 0, 0]) := by decide +kernel
/-- V10, decrypted. -/
theorem test_aead_dec192 : outcome 0x00000111
    (bench [0x3d, 0x00, 0xd2, 0xdb, 0xfa, 0xec, 0x21, 0xfb, 0x59, 0xc4, 0x1a, 0x9a, 0x97, 0x4f, 0xee]) 0x80 7 =
      some (2, 7, countUp 0x50 7) := by decide +kernel
/-- V10, decrypted. -/
theorem test_aead_dec256 : outcome 0x00000211
    (bench [0x3a, 0x49, 0xf5, 0x01, 0xc0, 0x1d, 0x7a, 0xb7, 0x7e, 0x90, 0xc6, 0xa7, 0x97, 0x2c, 0x3e]) 0x80 7 =
      some (2, 7, countUp 0x50 7) := by decide +kernel
/-- V11. -/
theorem test_siv_enc128 : outcome 0x00000012 (bench (countUp 0x50 7)) 0x80 15 =
    some (2, 15, [0xc5, 0x42, 0x01, 0x3e, 0xd4, 0x5d, 0xeb, 0xf3, 0x57, 0x67, 0x3c, 0x73, 0x95, 0x94, 0x7e]) := by decide +kernel
/-- V11. -/
theorem test_siv_enc192 : outcome 0x00000112 (bench (countUp 0x50 7)) 0x80 15 =
    some (2, 15, [0xc8, 0xb6, 0xfa, 0x88, 0xaf, 0x2a, 0x95, 0x4c, 0x4c, 0x31, 0xbc, 0x9d, 0xf9, 0xfd, 0xb5]) := by decide +kernel
/-- P3: in place. -/
theorem test_siv_enc256 :
    (let s := bench (countUp 0x50 7); outcome 0x00000212 { s with ops := { s.ops with outAddr := 0x50 } } 0x50 15) =
      some (2, 15, [0x78, 0x30, 0x0a, 0x0b, 0x06, 0x2f, 0xe4, 0xd3, 0x86, 0xc7, 0x98, 0x61, 0x12, 0x8c, 0xb5]) := by decide +kernel
/-- V11, decrypted. -/
theorem test_siv_dec128 : outcome 0x00000013
    (bench [0xc5, 0x42, 0x01, 0x3e, 0xd4, 0x5d, 0xeb, 0xf3, 0x57, 0x67, 0x3c, 0x73, 0x95, 0x94, 0x7e]) 0x80 7 =
      some (2, 7, countUp 0x50 7) := by decide +kernel
/-- V11, decrypted. -/
theorem test_siv_dec192 : outcome 0x00000113
    (bench [0xc8, 0xb6, 0xfa, 0x88, 0xaf, 0x2a, 0x95, 0x4c, 0x4c, 0x31, 0xbc, 0x9d, 0xf9, 0xfd, 0xb5]) 0x80 7 =
      some (2, 7, countUp 0x50 7) := by decide +kernel
/-- P3, decryption. -/
theorem test_siv_dec256 : outcome 0x00000213
    (bench [0x78, 0x30, 0x0a, 0x0b, 0x06, 0x2f, 0xe4, 0xd3, 0x86, 0xc7, 0x98, 0x61, 0x12, 0x8c, 0xb5]) 0x80 7 =
      some (2, 7, countUp 0x50 7) := by decide +kernel
/-- R303: seven bytes are too short. -/
theorem test_siv_dec256_short : outcome 0x00000213 (bench (countUp 0 7)) 0x50 1 = some (0x302, 0, [0]) := by decide +kernel
/-- R237 (P4). -/
theorem test_hash_init : outcome 0x00000020 (bench []) 0x30 1 = some (6, 0, [0]) := by decide +kernel
/-- P5, row 8. -/
theorem test_hash_update_no_stream : outcome 0x00000021 (bench [0x61]) 0x30 1 = some (0x202, 0, [0]) := by decide +kernel
/-- P4: twenty bytes into a fresh stream make one compression. -/
theorem test_hash_update :
    (match step ({ bench (countUp 0 20) with hashActive := true }.withFetchWord 32 0x00000021) with
      | .next t => (quadBytes t.hash.hl, t.hash.hpos, t.hash.hbuf.toList.take 5)
      | .fault _ => ([], 0, [])
      | .refused _ => ([], 0, [])) =
      ([0x11, 0x1e, 0x1c, 0xdb, 0x23, 0xa9, 0xa4, 0x0e, 0x43, 0xa5, 0x86, 0x5f, 0x27, 0x60, 0x31, 0x3a], 4,
        [0x10, 0x11, 0x12, 0x13, 0]) := by decide +kernel
/-- V12: the empty stream. -/
theorem test_hash_final : outcome 0x00000022 { bench [] with hashActive := true } 0x80 32 =
    some (2, 32, [0x3a, 0xed, 0x5e, 0x53, 0xbc, 0x03, 0xd2, 0x0f, 0x38, 0x4f, 0x6d, 0x84, 0xd4, 0x75, 0x05, 0x36] ++
      [0x5f, 0x1d, 0x9a, 0x2e, 0x75, 0x7c, 0xd6, 0x87, 0x8f, 0xfb, 0x57, 0x49, 0x96, 0x42, 0x13, 0x5d]) := by decide +kernel
/-- V2, the source's vector. -/
theorem test_hash_abc : outcome 0x00000023 (bench [0x61, 0x62, 0x63]) 0x80 32 =
    some (2, 32, [0xcb, 0x58, 0x56, 0xd9, 0x57, 0x99, 0x8c, 0xae, 0x7f, 0xcb, 0xed, 0x7d, 0x0d, 0xf3, 0xd6, 0x37] ++
      [0xbb, 0x83, 0x13, 0xd7, 0xbd, 0xd7, 0xf3, 0x59, 0xb1, 0x5a, 0x96, 0x77, 0xf6, 0xf2, 0xe5, 0x84]) := by decide +kernel
/-- P5, row 1. -/
theorem test_illegal_word : outcome 0x00000003 (bench []) 0x30 1 = some (0x102, 0, [0]) := by decide +kernel
/-- P5, rows 9 and 14: a region past the end, without wrap. -/
theorem test_region_past_end :
    (let s := bench []; outcome 0x00000010 { s with ops := { s.ops with keyAddr := 0x3f1 } } 0x30 1) = some (0x402, 0, [0]) ∧
    (let s := bench []; outcome 0x00000010 { s with ops := { s.ops with inAddr := 1, inLen := 0xffffffff } } 0x30 1) =
      some (0x402, 0, [0]) := by decide +kernel
/-- P5, row 13, at the 192-bit key size: the length check comes first. -/
theorem test_length_before_region :
    (let s := bench []; outcome 0x00000111 { s with ops := { s.ops with keyAddr := 0x1000, inLen := 3 } } 0x30 1) =
      some (0x302, 0, [0]) := by decide +kernel

/-! ### Host and platform -/

/-- The state a step leaves. -/
def after (s : State) : Option State :=
  match step s with
  | .next t => some t
  | .fault _ => none
  | .refused _ => none

/-- R30: an accepted command; R34: a write while busy is ignored. -/
theorem test_accept : (after { State.reset with schedule := [.regWrite .word 0 0x10] }).map
    (fun t => (t.cmd, statusWord t, t.phase)) = some (0x10, 1, .check) := by decide
theorem test_write_while_busy : (after { State.reset with busy := true, phase := .check, schedule := [.regWrite .word 8 7] }).map
    (fun t => t.ops.keyAddr) = some 0 := by decide
/-- R34, U4: narrow and misaligned accesses are refused. -/
theorem test_narrow_access : step { State.reset with schedule := [.regRead .half 4] } = .refused .registerAccessShape := by rfl
theorem test_misaligned_access : step { State.reset with schedule := [.regWrite .word 2 0] } = .refused .registerAccessShape := by rfl
/-- R60: the last byte of MEM exists, the next does not. -/
theorem test_mem_end : (after { State.reset with schedule := [.memWrite 0x3ff [9]] }).map (fun t => memByte t.mem 0x3ff) = some 9 := by
  decide
theorem test_mem_past_end : step { State.reset with schedule := [.memWrite 0x3ff [9, 9]] } = .fault .noSuchAddress := by rfl
/-- R76, U2. -/
theorem test_mem_while_busy : step { State.reset with busy := true, schedule := [.memRead 0 1] } = .refused .hostMemoryWhileBusy := by
  rfl
/-- R342: reset keeps MEM. -/
theorem test_reset_event : after { bench [] with schedule := [.reset] } = some { State.reset with mem := (bench []).mem } := by
  decide +kernel

/-! ### Witnesses: inputs that meet the hypotheses of each statement that has some -/

/-- A busy Core with a command word and nothing else to do. -/
def running (c : Word) (s : State) : State := acceptCommand c { s with schedule := [] }

/-- An open hash stream with 15 pending bytes. -/
def openStream (input : List Byte) : State :=
  { bench input with
    hashActive := true
    hash := { HashRegs.zero with hbuf := Vector.ofFn fun i => if i.val < 15 then BitVec.ofNat 8 (i.val + 1) else 0, hpos := 15 } }

/-- An engine at rest. -/
def rest : Engine := { Datapath.zero with work := 0, trail := [] }

/-- A column of one round everywhere, for small witnesses. -/
def oneRound : RoundCounts := ⟨1, 1, 1, 1, 1, 1, 1, 1, 1⟩

theorem witness_DecodeInvertsEncode : Instr.wellFormed (.perm256 65535) = true ∧ Instr.wellFormed (.perm128 0) = true := by decide
theorem witness_EncodeInvertsDecode : decode 0xffff0102 = .ok (.perm192 65535) := by rfl
theorem witness_IllegalCommandWord : let s := running 0x00000310 State.reset
    s.busy = true ∧ coresTurn s = true ∧ WordIllegal s.cmd := by
  refine ⟨rfl, rfl, ?_⟩; unfold WordIllegal; decide
/-- Each of the five conditions, alone. -/
theorem witness_IllegalCommandWord_each : WordIllegal 0x24 ∧ WordIllegal 0x400 ∧ WordIllegal 0x302 ∧ WordIllegal 0x101 ∧
    WordIllegal 0x10023 := by
  refine ⟨?_, ?_, ?_, ?_, ?_⟩ <;> (unfold WordIllegal; decide)
theorem witness_StepRunsDecodedCommand : let s := running 0x00000023 State.reset
    (s.busy = true ∧ coresTurn s = true ∧ decode s.cmd = .ok .hash) ∧ State.reset.busy = false ∧ State.reset.schedule = [] :=
  ⟨⟨rfl, rfl, rfl⟩, rfl, rfl⟩
theorem witness_FetchedWordRunsNext : decodeTableWord 32 0x000a0202 = some (.perm256 10) := by rfl
theorem witness_PermuteEqualsSerial : (4 : Nat) = 4 ∨ 4 = 6 ∨ 4 = 8 := by decide
theorem witness_PermuteFixedPoints : 0 < 4 ∧ ∀ i < 4, keyWord (keySchedule (List.replicate 16 0)) i = 0xFFFFFFFF := by decide
theorem witness_PermuteSplitsAtPattern : 4 * 3 % 6 = 0 ∧ 4 * 2 % 8 = 0 ∧ 4 * 1 % 4 = 0 := by decide
theorem witness_RawKeyBitsAreKeyBytes : (countUp 0 16).length = 16 ∧ (countUp 0 24).length = 24 ∧ (countUp 0 32).length = 32 := by
  decide
theorem witness_KeyScheduleInvertsWords : (countUp 0 24).length = 24 ∧ 5 < 8 ∧ 6 < 8 := by decide
theorem witness_WordBytesRoundTrip : 4 ≤ (countUp 7 4).length := by decide
/-- A partial group and a full one, and two partial groups. -/
theorem witness_PaddingIsInjective :
    ([1, 2, 3] : List Byte).length ≠ ([1, 2, 3, 0] : List Byte).length ∧ groupCount 3 = groupCount 4 ∧
      padGroups [1, 2, 3] = padGroups [1, 2, 3, 0] ∧ groupCount 1 = groupCount 2 ∧ padGroups [9] = padGroups [9, 0] := by decide
theorem witness_AeadEncryptIsBitSerialSpec : (countUp 0 16).length = 16 ∧ (countUp 0 12).length = 12 := by decide
theorem witness_SivEncryptIsBitSerialSpec : (countUp 0 32).length = 32 ∧ (countUp 0 12).length = 12 := by decide
theorem witness_HashIsBitSerialSpec : (countUp 0 32).length = 32 ∧ (countUp 0 16).length = 16 := by decide
/-- The output is the one the model's encryption of five bytes gives. -/
theorem witness_EncryptAddsEightBytes :
    (aeadDecrypt oneRound (countUp 0 16) (countUp 0 12) [] (aeadEncrypt oneRound (countUp 0 16) (countUp 0 12) [] (countUp 0 5) rest).1
      rest).1 = .plaintext (countUp 0 5) ∧
    (sivDecrypt oneRound (countUp 0 16) (countUp 0 12) [] (sivEncrypt oneRound (countUp 0 16) (countUp 0 12) [] (countUp 0 5) rest).1
      rest).1 = .plaintext (countUp 0 5) := by decide +kernel
theorem witness_AeadTagTamperFails :
    let tag := (aeadEncrypt oneRound (countUp 0 16) (countUp 0 12) [] [] rest).1
    tag.length = 8 ∧ (countUp 0 8).length = 8 ∧ countUp 0 8 ≠ tag ∧
      (aeadDecrypt oneRound (countUp 0 16) (countUp 0 12) [] ([] ++ tag) rest).1 = .plaintext [] := by decide +kernel
/-- What releases a plaintext is built with the model's encryption of nothing. -/
theorem witness_AeadRoundTrip : let x := (aeadEncrypt oneRound (countUp 0 16) (countUp 0 12) [] [] rest).1
    (aeadDecrypt oneRound (countUp 0 16) (countUp 0 12) [] x rest).1 = .plaintext [] := by decide +kernel
theorem witness_SivRoundTrip : let x := (sivEncrypt oneRound (countUp 0 16) (countUp 0 12) [] [7] rest).1
    (sivDecrypt oneRound (countUp 0 16) (countUp 0 12) [] x rest).1 = .plaintext [7] := by decide +kernel
/-- A full group of bytes, and a final group of one. -/
theorem witness_NonceReuseLeaksXor : (countUp 0 8).length % 4 = 0 ∧ (4 ≤ 4 ∧ 4 ≤ (countUp 0 4).length ∧ 4 ≤ (countUp 9 5).length) ∧
    (1 ≤ 4 ∧ 1 ≤ (countUp 0 1).length ∧ 1 ≤ (countUp 9 3).length) := by decide
theorem witness_SivDerivedNonce : (countUp 0 12).length = 12 ∧ (countUp 0 8).length = 8 := by decide
theorem witness_ModeWorkMeasure : 8 ≤ (countUp 0 8).length := by decide
theorem witness_HashWorkMeasure : (openStream []).hash.hpos ≤ 15 := by decide
theorem witness_ModePhaseTrails : 8 ≤ (countUp 0 8).length := by decide
/-- Every region ends inside MEM, the key exactly at its end. -/
theorem witness_PermCommandResult : let s := bench []
    PermFits .k128 { s with ops := { s.ops with keyAddr := 0x3f0 } } ∧ PermFits .k256 s ∧
      ¬PermFits .k128 { s with ops := { s.ops with keyAddr := 0x3f1 } } ∧ 65535 < 65536 := by decide
/-- No data at all, and five bytes of associated data with seven of input. -/
theorem witness_AeadEncCommandResult : ModeFits .k128 8 { bench [] with ops := ⟨0x3f0, 0, 0xffffffff, 0, 0, 0, 0⟩ } ∧
    ModeFits .k256 15 (bench (countUp 0 7)) ∧ ¬ModeFits .k128 8 { bench [] with ops := ⟨0, 0, 0xffffffff, 1, 0, 0, 0⟩ } := by
  decide +kernel
/-- Eight input bytes, seven, and a region too long by one. -/
theorem witness_AeadDecCommandResult : 8 ≤ (bench (countUp 0 8)).ops.inLen.toNat ∧ ModeFits .k192 0 (bench (countUp 0 8)) ∧
    ModeFits .k256 7 (bench (countUp 0 15)) ∧ (bench (countUp 0 7)).ops.inLen.toNat < 8 ∧
    ¬ModeFits .k192 1 { bench [] with ops := ⟨0, 0, 0, 0, 0, 9, 0x400⟩ } := by decide +kernel
theorem witness_SivEncCommandResult : ModeFits .k192 15 (bench (countUp 0 7)) ∧
    ¬ModeFits .k192 8 { bench [] with ops := ⟨0, 0, 0, 0, 0, 0, 0x3f9⟩ } := by decide +kernel
theorem witness_SivDecCommandResult : 8 ≤ (bench (countUp 0 8)).ops.inLen.toNat ∧ ModeFits .k128 0 (bench (countUp 0 8)) ∧
    (bench (countUp 0 7)).ops.inLen.toNat < 8 ∧ ¬ModeFits .k128 0 { bench [] with ops := ⟨0x3f1, 0, 0, 0, 0, 8, 0⟩ } := by
  decide +kernel
theorem openStream_tailZero (input : List Byte) : (openStream input).hash.tailZero := by
  intro i hi h
  have h15 : i = 15 := by simp only [openStream] at h; omega
  subst h15; rfl
/-- The sixteenth byte arrives. -/
theorem witness_HashUpdateResult : let s := openStream (countUp 0 2)
    s.hashActive = true ∧ s.hash.hpos ≤ 15 ∧ s.hash.tailZero ∧ Fits s s.ops.inAddr.toNat s.ops.inLen.toNat ∧
      (openStream []).ops.inLen = 0 ∧ (bench []).hashActive = false ∧ ¬Fits s 0x3ff 2 :=
  ⟨rfl, by decide, openStream_tailZero _, by decide⟩
theorem witness_HashFinalResult : let s := openStream []
    s.hashActive = true ∧ s.hash.hpos ≤ 15 ∧ Fits s s.ops.outAddr.toNat 32 ∧ (bench []).hashActive = false ∧
      ¬Fits s 0x3e1 32 := by decide
theorem witness_HashResult : let s := bench (countUp 0 3)
    Fits s s.ops.inAddr.toNat s.ops.inLen.toNat ∧ Fits s s.ops.outAddr.toNat 32 ∧
      ¬(Fits s s.ops.inAddr.toNat s.ops.inLen.toNat ∧ Fits s 0x3e1 32) := by decide
theorem witness_HashEqualsStream : let s := bench []
    Fits s s.ops.inAddr.toNat s.ops.inLen.toNat ∧ Fits s s.ops.outAddr.toNat 32 := by decide
/-- A region that ends with MEM, at 0x400 and at 2^32. -/
theorem witness_HashUpdateSplits : (openStream []).hashActive = true ∧
    (0x3f0 + 1 < 2 ^ 32 ∧ 1 + 15 < 2 ^ 32 ∧ Fits (openStream []) 0x3f0 (1 + 15)) ∧
    (0xfffffff0 + 1 < 2 ^ 32 ∧ Fits { openStream [] with config := ⟨2 ^ 32, profileDoc⟩ } 0xfffffff0 (1 + 15)) := by decide
/-- Each clause: an illegal word; no stream; a short input; a region one byte too long; all checks passed. -/
theorem witness_ChecksInPriorityOrder :
    (let s := running 0x00000023 (bench []); s.busy = true ∧ coresTurn s = true ∧ decode s.cmd = .ok .hash) ∧
      WordIllegal 0x00000410 ∧ (needsStream .hashUpdate = true ∧ (bench []).hashActive = false) ∧
      (decrypts .sivDec192 = true ∧ (bench (countUp 0 7)).ops.inLen.toNat < 8) ∧
      ¬RegionsFit .hash { bench [] with ops := ⟨0, 0, 0, 0, 0, 0, 0x3e1⟩ } ∧
      RegionsFit .hash { bench [] with ops := ⟨0, 0, 0, 0, 0, 0, 0x3e0⟩ } := by
  refine ⟨⟨rfl, rfl, rfl⟩, ?_, by decide, by decide +kernel, ?_, ?_⟩
  · unfold WordIllegal; decide
  · intro h; exact absurd h.2.2.2 (by decide)
  · exact ⟨by decide, by decide, ⟨fun _ h => (by cases h; decide), by decide⟩⟩
theorem witness_EveryCommandWordCompletes : State.reset.busy = false := by rfl
theorem witness_CommandsKeepHostRegisters : ∃ t, exec .nop State.reset = .next t := ⟨_, rfl⟩
theorem witness_CommandsWriteOnlyOutput : (∃ t, exec .hash (bench []) = .next t) ∧
    ¬Fits (bench []) 0x3e1 (outputBytes .hash (bench [])) := ⟨⟨_, rfl⟩, by decide⟩
theorem witness_CipherCommandsKeepHash : touchesHash .nop = false ∧ ∃ t, exec .nop State.reset = .next t := ⟨rfl, _, rfl⟩
theorem witness_UnreadOperandsIgnored : ∃ t, exec .nop { bench [] with ops := readOperands .nop (bench []).ops } = .next t :=
  ⟨_, rfl⟩
/-- A busy Core in the middle of a hash stream. -/
theorem witness_StepKeepsInvariant : (running 0x00000000 (openStream [])).Inv ∧ ∃ t, step (running 0x00000000 (openStream [])) = .next t :=
  ⟨{ busyPhase := by decide, busyDone := by decide, errDone := by decide, errOutLen := by decide, idleZero := by decide,
     kwLegal := by decide, hposBound := by decide, hbufTail := openStream_tailZero [], inactiveZero := by decide, memWf := by decide +kernel,
     memInside := by unfold Machine.memInside; decide +kernel }, _, rfl⟩
theorem witness_ResetEventResult : ({ bench [] with schedule := [.reset, .wait] } : State).schedule = .reset :: [.wait] := rfl
/-- Busy; `CMD`; an operand register; an offset that is read-only and one that is not in the map. -/
theorem witness_HostRegisterWrites : let s := fun b o => { State.reset with busy := b, schedule := [.regWrite .word o 1] }
    (∀ b o, (s b o).schedule = .regWrite .word o 1 :: []) ∧ (s true 0).busy = true ∧ (s false 0).busy = false ∧
      0 % 4 = 0 ∧ 0x20 % 4 = 0 ∧ 0x24 % 4 = 0 ∧ 0x28 % 4 = 0 ∧ 0x20 ∈ [0x08, 0x0C, 0x10, 0x14, 0x18, 0x1C, 0x20] ∧
      0x24 ∉ [0x00, 0x08, 0x0C, 0x10, 0x14, 0x18, 0x1C, 0x20] :=
  ⟨fun _ _ => rfl, by decide⟩
theorem witness_HostMemoryReadBack : let s := { State.reset with schedule := [.memWrite 0x3fe [1, 2], .memRead 0x3fe 2] }
    s.busy = false ∧ s.schedule = [.memWrite 0x3fe [1, 2], .memRead 0x3fe ([1, 2] : List Byte).length] ∧ Fits s 0x3fe 2 := by decide
theorem witness_HostRegisterReads :
    ({ State.reset with schedule := [.regRead .word 0x24] } : State).schedule = .regRead .word 0x24 :: [] ∧ 0x24 % 4 = 0 ∧
      0x28 % 4 = 0 ∧ 0x28 ≤ 0x28 := by decide
theorem witness_HostAccessesThatStop : let s := fun b m => { State.reset with busy := b, schedule := [m] }
    (∀ b m, (s b m).schedule = m :: []) ∧ AccessWidth.half ≠ .word ∧ 0x06 % 4 ≠ 0 ∧ (s true .wait).busy = true ∧
      (s false .wait).busy = false ∧ ¬Fits State.reset 0x400 1 ∧ ¬Fits State.reset 0x3ff 2 :=
  ⟨fun _ _ => rfl, by decide⟩

end Sys2Proof.Tests
end

/-! ## Illegal command words (30_encoding.md R97, 60_exceptions.md R301)

The decoder, the opcode table and R97's list of conditions all speak of the four fields of a word, so each of the three is read off
the fields, and the obligation compares the readings. -/

namespace Sys2Proof.Encoding

open Sys2Proof.Machine Sys2Proof.Claims

/-! ### The fields of a word as numbers -/

theorem opField_eq (c : Word) : opField c = c.toNat % 256 := by simp [opField]

theorem ksField_eq (c : Word) : ksField c = c.toNat / 256 % 4 := by simp [ksField, Nat.shiftRight_eq_div_pow]

theorem rsvField_eq (c : Word) : rsvField c = c.toNat / 1024 % 64 := by simp [rsvField, Nat.shiftRight_eq_div_pow]

theorem roundsField_eq (c : Word) : roundsField c = c.toNat / 65536 := by
  rw [roundsField, BitVec.extractLsb'_toNat, Nat.shiftRight_eq_div_pow]
  exact Nat.mod_eq_of_lt (Nat.div_lt_of_lt_mul c.isLt)

theorem ksField_cases (c : Word) : ksField c = 0 ∨ ksField c = 1 ∨ ksField c = 2 ∨ ksField c = 3 := by
  have hlt : ksField c < 4 := (c.extractLsb' 8 2).isLt
  omega

/-- A word is its four fields (R90). -/
theorem eq_iff_fields (c p : Word) : c = p ↔
    opField c = opField p ∧ ksField c = ksField p ∧ rsvField c = rsvField p ∧ roundsField c = roundsField p := by
  simp only [opField_eq, ksField_eq, rsvField_eq, roundsField_eq, ← BitVec.toNat_inj]
  omega

/-! ### R97's conditions by the family of the operation -/

theorem wordIllegal_iff_fields (c : Word) : WordIllegal c ↔
    opField c ∉ [0x00, 0x01, 0x02, 0x10, 0x11, 0x12, 0x13, 0x20, 0x21, 0x22, 0x23] ∨ rsvField c ≠ 0 ∨ ksField c = 3 ∨
      (ksField c ≠ 0 ∧ opField c ∈ [0x00, 0x01, 0x20, 0x21, 0x22, 0x23]) ∨ (roundsField c ≠ 0 ∧ opField c ≠ 0x02) := by
  rw [opField_eq, ksField_eq, rsvField_eq, roundsField_eq, WordIllegal]

theorem wordIllegal_of_rsvField {c : Word} (hrsv : rsvField c ≠ 0) : WordIllegal c :=
  (wordIllegal_iff_fields c).2 (.inr (.inl hrsv))

theorem wordIllegal_of_opField {c : Word}
    (hop : opField c ∉ [0x00, 0x01, 0x02, 0x10, 0x11, 0x12, 0x13, 0x20, 0x21, 0x22, 0x23]) : WordIllegal c :=
  (wordIllegal_iff_fields c).2 (.inl hop)

/-- The commands that take no key. -/
theorem wordIllegal_keyless_iff {c : Word} (hrsv : rsvField c = 0) (hop : opField c ∈ [0x00, 0x01, 0x20, 0x21, 0x22, 0x23]) :
    WordIllegal c ↔ ksField c ≠ 0 ∨ roundsField c ≠ 0 := by
  rw [wordIllegal_iff_fields]
  simp only [List.mem_cons, List.not_mem_nil, or_false] at hop ⊢
  omega

/-- The modes. -/
theorem wordIllegal_mode_iff {c : Word} (hrsv : rsvField c = 0) (hop : opField c ∈ [0x10, 0x11, 0x12, 0x13]) :
    WordIllegal c ↔ ksField c = 3 ∨ roundsField c ≠ 0 := by
  rw [wordIllegal_iff_fields]
  simp only [List.mem_cons, List.not_mem_nil, or_false] at hop ⊢
  omega

/-- `PERM`. -/
theorem wordIllegal_perm_iff {c : Word} (hrsv : rsvField c = 0) (hop : opField c = 0x02) :
    WordIllegal c ↔ ksField c = 3 := by
  simp [wordIllegal_iff_fields, hrsv, hop]

/-! ### What the decoder refuses -/

theorem decodeKeyless_error_iff (c : Word) (i : Instr) :
    (∃ e, decodeKeyless c i = .error e) ↔ ksField c ≠ 0 ∨ roundsField c ≠ 0 := by
  unfold decodeKeyless
  by_cases hks : ksField c = 0 <;> by_cases hrounds : roundsField c = 0 <;> simp [hks, hrounds]

theorem decodeKeySize_error_iff (c : Word) : (∃ e, decodeKeySize c = .error e) ↔ ksField c = 3 := by
  obtain h | h | h | h := ksField_cases c <;> simp [decodeKeySize, h]

theorem decodeMode_error_iff (c : Word) (i128 i192 i256 : Instr) :
    (∃ e, decodeMode c i128 i192 i256 = .error e) ↔ ksField c = 3 ∨ roundsField c ≠ 0 := by
  rw [← decodeKeySize_error_iff, decodeMode]
  cases decodeKeySize c with
  | error e => simp
  | ok ks => by_cases hrounds : roundsField c = 0 <;> cases ks <;> simp [hrounds]

theorem decodePerm_error_iff (c : Word) : (∃ e, decodePerm c = .error e) ↔ ksField c = 3 := by
  rw [← decodeKeySize_error_iff, decodePerm]
  cases decodeKeySize c with
  | error e => simp
  | ok ks => cases ks <;> simp

/-- R97: the decoder refuses exactly the words one of the five conditions holds of. -/
theorem decode_error_iff_wordIllegal (c : Word) : (∃ e, decode c = .error e) ↔ WordIllegal c := by
  by_cases hrsv : rsvField c = 0
  · rw [decode, if_neg (not_not.2 hrsv)]
    split
    case h_1 hop | h_2 hop | h_8 hop | h_9 hop | h_10 hop | h_11 hop =>
      rw [decodeKeyless_error_iff, wordIllegal_keyless_iff hrsv (by simp [hop])]
    case h_3 hop => rw [decodePerm_error_iff, wordIllegal_perm_iff hrsv hop]
    case h_4 hop | h_5 hop | h_6 hop | h_7 hop =>
      rw [decodeMode_error_iff, wordIllegal_mode_iff hrsv (by simp [hop])]
    case h_12 => exact iff_of_true ⟨_, rfl⟩ (wordIllegal_of_opField (by simp_all))
  · rw [decode, if_pos hrsv]
    exact iff_of_true ⟨_, rfl⟩ (wordIllegal_of_rsvField hrsv)

/-! ### What the opcode table misses -/

theorem fixedRow_match_iff (c p : Word) : (c &&& (fixedRow p).mask) = (fixedRow p).pattern ↔
    opField c = opField p ∧ ksField c = ksField p ∧ rsvField c = rsvField p ∧ roundsField c = roundsField p := by
  have hmask : c &&& 0xffffffff = c := BitVec.and_allOnes
  rw [← eq_iff_fields, fixedRow, hmask]

theorem permRow_match_iff (c p : Word) : (c &&& (permRow p).mask) = (permRow p).pattern ↔
    opField c = opField p ∧ ksField c = ksField p ∧ rsvField c = rsvField p ∧ roundsField p = 0 := by
  have hmask : (c &&& 0x0000ffff).toNat = c.toNat % 65536 := Nat.and_two_pow_sub_one_eq_mod c.toNat 16
  rw [permRow, ← BitVec.toNat_inj, hmask]
  simp only [opField_eq, ksField_eq, rsvField_eq, roundsField_eq]
  omega

/-- R95 and R97: the words that match no row are exactly the words one of the five conditions holds of. With `RSV = 0` and a defined
`OP`, only the rows of that operation are left, and they fix `KS` and `ROUNDS`. -/
theorem no_row_iff_wordIllegal (c : Word) : (∀ r ∈ opcodeTable, (c &&& r.mask) ≠ r.pattern) ↔ WordIllegal c := by
  have hks := ksField_cases c
  simp only [wordIllegal_iff_fields, opcodeTable, List.forall_mem_append, List.forall_mem_cons, ne_eq, fixedRow_match_iff,
    permRow_match_iff]
  generalize opField c = op, ksField c = ks, rsvField c = rsv, roundsField c = rounds at *
  by_cases hrsv : rsv = 0
  · by_cases hop : op ∈ [0x00, 0x01, 0x02, 0x10, 0x11, 0x12, 0x13, 0x20, 0x21, 0x22, 0x23]
    · fin_cases hop <;> simp [opField, ksField, rsvField, roundsField, hrsv] <;> omega
    · simp_all [opField, ksField, rsvField, roundsField]
  · simp [opField, ksField, rsvField, roundsField, hrsv]

/-! ### What an illegal word does -/

theorem step_of_decode_error {s : State} (hbusy : s.busy = true) (hturn : coresTurn s = true)
    (hdecode : ∃ e, decode s.cmd = .error e) : step s = .next (illegalCommand s) := by
  obtain ⟨e, he⟩ := hdecode
  rw [step, if_pos hturn, coreTurn, if_pos hbusy, he]

/-- R306: a raised error is recorded and nothing else happens. -/
theorem raise_onlyReports (e : Err) (s : State) : OnlyReports e s (raise e s) :=
  ⟨⟨rfl, rfl, rfl, rfl, rfl⟩, raise_outLen e s, rfl, ⟨rfl, rfl⟩, ⟨rfl, rfl, rfl, rfl, rfl⟩⟩

/-- Settles O3: decoder and table agree with R97's conditions, field by field; an illegal word then takes the step's refused arm,
which only raises `CMD_ERR`. -/
theorem illegalCommandWord : Obligations.IllegalCommandWord := by
  unfold Obligations.IllegalCommandWord
  refine ⟨fun c => ⟨?_, decode_error_iff_wordIllegal c⟩, fun s hbusy hturn hillegal => ?_⟩
  · exact (decode_error_iff_wordIllegal c).trans (no_row_iff_wordIllegal c).symm
  · have hstep := step_of_decode_error hbusy hturn ((decode_error_iff_wordIllegal s.cmd).2 hillegal)
    exact ⟨illegalCommand s, hstep, raise_onlyReports .cmdErr s⟩

end Sys2Proof.Encoding

/-! ## The permutation (40_permutation.md)

The batched and the serial definition meet in one picture: the 128-bit register is a window on the 160 bits `feedback32 ‖ S`, and a
serial step moves the window up by one bit. The laws of `permute` follow from its form as a fold of `steps32` over the key words. -/

namespace Sys2Proof.Permutation

open Sys2Proof.Machine

/-! ### The bits of words and registers -/

theorem getLsbD_funnel (a b : Word) {n m : Nat} (hn : n < 32) (hm : m < 32) :
    (funnel a b n).getLsbD m = (b ++ a).getLsbD (n + m) := by
  rw [funnel, BitVec.getLsbD_or, BitVec.getLsbD_ushiftRight, BitVec.getLsbD_shiftLeft, BitVec.getLsbD_append]
  by_cases h : n + m < 32
  · have hlow : m < 32 - n := by omega
    simp [h, hlow]
  · have hhigh : ¬ m < 32 - n := by omega
    have hidx : m - (32 - n) = n + m - 32 := by omega
    rw [BitVec.getLsbD_of_ge a (n + m) (by omega)]
    simp [h, hhigh, hm, hidx]

/-- Bits 32 to 95 of the register are `S[2] ‖ S[1]`, which the tap at bit 47 reads (R124). -/
theorem getLsbD_stateBits_add_32 (s : Quad) {i : Nat} (hi : i < 64) :
    (stateBits s).getLsbD (32 + i) = (s.w2 ++ s.w1).getLsbD i := by
  simp only [stateBits, BitVec.getLsbD_append]
  grind

/-- Bits 64 to 127 of the register are `S[3] ‖ S[2]`, which the taps at bits 70, 85 and 91 read (R124). -/
theorem getLsbD_stateBits_add_64 (s : Quad) (i : Nat) :
    (stateBits s).getLsbD (64 + i) = (s.w3 ++ s.w2).getLsbD i := by
  simp only [stateBits, BitVec.getLsbD_append]
  grind

theorem getLsbD_stateBits_of_lt (s : Quad) {i : Nat} (hi : i < 32) : (stateBits s).getLsbD i = s.w0.getLsbD i := by
  rw [stateBits, BitVec.getLsbD_append, if_pos hi]

theorem bitsState_stateBits (s : Quad) : bitsState (stateBits s) = s := by
  have hw0 : (stateBits s).extractLsb' 0 32 = s.w0 := BitVec.extractLsb'_append_eq_right
  have hw1 : (stateBits s).extractLsb' 32 32 = s.w1 := by
    rw [stateBits, BitVec.extractLsb'_append_eq_of_le (by decide)]
    exact BitVec.extractLsb'_append_eq_right
  have hw2 : (stateBits s).extractLsb' 64 32 = s.w2 := by
    rw [stateBits, BitVec.extractLsb'_append_eq_of_le (by decide), BitVec.extractLsb'_append_eq_of_le (by decide)]
    exact BitVec.extractLsb'_append_eq_right
  have hw3 : (stateBits s).extractLsb' 96 32 = s.w3 := by
    rw [stateBits, BitVec.extractLsb'_append_eq_of_le (by decide), BitVec.extractLsb'_append_eq_of_le (by decide)]
    exact BitVec.extractLsb'_append_eq_left
  rw [bitsState, hw0, hw1, hw2, hw3]

theorem getLsbD_serialStep_last (b : BitVec 128) (kb : Bool) : (serialStep b kb).getLsbD 127 = serialFeedback b kb := by
  rw [serialStep, BitVec.getLsbD_cons, if_pos rfl]

theorem getLsbD_serialStep_of_lt (b : BitVec 128) (kb : Bool) {i : Nat} (hi : i < 127) :
    (serialStep b kb).getLsbD i = b.getLsbD (i + 1) := by
  simp [serialStep, BitVec.getLsbD_cons, hi, hi.ne, Nat.add_comm]

/-! ### 32 serial steps and `steps32` (R125) -/

/-- The register after `m` of the 32 serial steps: the 128 bits from bit `m` on of the state with the fed-back word above it. -/
def window (s : Quad) (kw : Word) (m : Nat) : BitVec 128 := (feedback32 s kw ++ stateBits s).extractLsb' m 128

theorem getLsbD_window (s : Quad) (kw : Word) (m : Nat) {i : Nat} (hi : i < 128) :
    (window s kw m).getLsbD i = (feedback32 s kw ++ stateBits s).getLsbD (m + i) := by
  simp [window, hi]

theorem getLsbD_window_of_lt (s : Quad) (kw : Word) {m i : Nat} (hi : m + i < 128) :
    (window s kw m).getLsbD i = (stateBits s).getLsbD (m + i) := by
  rw [getLsbD_window s kw m (by omega), BitVec.getLsbD_append, if_pos hi]

theorem window_zero (s : Quad) (kw : Word) : window s kw 0 = stateBits s := by
  apply BitVec.eq_of_getLsbD_eq
  intro i hi
  rw [getLsbD_window_of_lt s kw (by omega), Nat.zero_add]

theorem window_32 (s : Quad) (kw : Word) : window s kw 32 = stateBits (steps32 s kw) := by
  apply BitVec.eq_of_getLsbD_eq
  intro i hi
  rw [getLsbD_window s kw 32 hi]
  simp only [stateBits, steps32, BitVec.getLsbD_append]
  grind

/-- A step's feedback bit is the bit of `feedback32` that enters: each tap of R122 reads the bit its funnel of R124 puts there. -/
theorem serialFeedback_window (s : Quad) (rw : Word) {m : Nat} (hm : m < 32) :
    serialFeedback (window s (~~~rw) m) (rw.getLsbD m) = (feedback32 s (~~~rw)).getLsbD m := by
  have tap0 : (window s (~~~rw) m).getLsbD 0 = s.w0.getLsbD m := by
    rw [getLsbD_window_of_lt s _ (by omega), Nat.add_zero, getLsbD_stateBits_of_lt s hm]
  have tapS1 {n : Nat} (hn : n < 32) : (window s (~~~rw) m).getLsbD (32 + n) = (funnel s.w1 s.w2 n).getLsbD m := by
    rw [getLsbD_window_of_lt s _ (by omega), getLsbD_funnel _ _ hn hm, ← getLsbD_stateBits_add_32 s (by omega)]
    congr 1; omega
  have tapS2 {n : Nat} (hn : n < 32) : (window s (~~~rw) m).getLsbD (64 + n) = (funnel s.w2 s.w3 n).getLsbD m := by
    rw [getLsbD_window_of_lt s _ (by omega), getLsbD_funnel _ _ hn hm, ← getLsbD_stateBits_add_64 s]
    congr 1; omega
  have tap47 := tapS1 (show 15 < 32 by decide)
  have tap70 := tapS2 (show 6 < 32 by decide)
  have tap85 := tapS2 (show 21 < 32 by decide)
  have tap91 := tapS2 (show 27 < 32 by decide)
  simp only [serialFeedback, tap0, tap47, tap70, tap85, tap91]
  simp only [feedback32, BitVec.getLsbD_xor, BitVec.getLsbD_and, BitVec.getLsbD_not, hm, decide_true, Bool.true_and, Bool.true_xor,
    Bool.not_xor, Bool.xor_not]

theorem serialStep_window (s : Quad) (rw : Word) {m : Nat} (hm : m < 32) :
    serialStep (window s (~~~rw) m) (rw.getLsbD m) = window s (~~~rw) (m + 1) := by
  apply BitVec.eq_of_getLsbD_eq
  intro i hi
  obtain rfl | hlt : i = 127 ∨ i < 127 := by omega
  · have hpos : m + 1 + 127 = 128 + m := by omega
    rw [getLsbD_serialStep_last, serialFeedback_window s rw hm, getLsbD_window s _ _ hi, hpos, BitVec.getLsbD_append,
      if_neg (by omega), Nat.add_sub_cancel_left]
  · rw [getLsbD_serialStep_of_lt _ _ hlt, getLsbD_window s _ _ hi, getLsbD_window s _ _ (by omega)]
    congr 1; omega

theorem foldl_serialStep_eq_window (s : Quad) (rw : Word) {m : Nat} (hm : m ≤ 32) :
    (List.range m).foldl (fun b i => serialStep b (rw.getLsbD i)) (stateBits s) = window s (~~~rw) m := by
  induction m with
  | zero => exact (window_zero s _).symm
  | succ m ih => simp only [List.range_succ, List.foldl_concat, ih (by omega), serialStep_window s rw (Nat.lt_of_succ_le hm)]

/-- Settles O8: each serial step moves the window up by one bit, and after 32 steps it shows what `steps32` leaves. -/
theorem steps32IsThirtyTwoSteps : Obligations.Steps32IsThirtyTwoSteps := by
  unfold Obligations.Steps32IsThirtyTwoSteps
  intro s rw
  exact (foldl_serialStep_eq_window s rw le_rfl).trans (window_32 s _)

/-! ### `permute` as a fold -/

theorem permuteFrom_add (k : KeyRegs) (kw a b j : Nat) (s : Quad) :
    permuteFrom k kw (a + b) j s = permuteFrom k kw b (j + 4 * a) (permuteFrom k kw a j s) := by
  induction a generalizing j s with
  | zero => simp [permuteFrom]
  | succ a ih =>
    have hrounds : a + 1 + b = (a + b) + 1 := by omega
    have hindex : j + 4 + 4 * a = j + 4 * (a + 1) := by omega
    rw [hrounds, permuteFrom, permuteFrom, ih, hindex]

theorem permute_add (s : Quad) (k : KeyRegs) (kw a b : Nat) :
    permute s k kw (a + b) = permuteFrom k kw b (4 * a) (permute s k kw a) := by
  rw [permute, permuteFrom_add, Nat.zero_add, permute]

theorem permute_zero (s : Quad) (k : KeyRegs) (kw : Nat) : permute s k kw 0 = s := rfl

theorem permute_succ (s : Quad) (k : KeyRegs) (kw r : Nat) :
    permute s k kw (r + 1) = round128 k kw (4 * r) (permute s k kw r) := permute_add s k kw r 1

theorem permute_eq_foldl_round128 (s : Quad) (k : KeyRegs) (kw rounds : Nat) :
    permute s k kw rounds = (List.range rounds).foldl (fun s r => round128 k kw (4 * r) s) s := by
  induction rounds with
  | zero => rfl
  | succ r ih => rw [permute_succ, List.range_succ, List.foldl_concat, ih]

/-- R127: the `q`-th `steps32` of a call uses `K[q mod KW]`. -/
theorem permute_eq_foldl_steps32 (s : Quad) (k : KeyRegs) (kw rounds : Nat) :
    permute s k kw rounds = (List.range (4 * rounds)).foldl (fun s q => steps32 s (keyWord k (q % kw))) s := by
  induction rounds with
  | zero => rfl
  | succ r ih => simp only [permute_succ, ih, Nat.mul_succ, List.range_succ, List.foldl_concat, round128, Nat.add_zero]

/-- Settles O13: the form of `permute` as a fold from key index 0 does not depend on the state it starts from. -/
theorem keyWordsTakenCyclically : Obligations.KeyWordsTakenCyclically := by
  unfold Obligations.KeyWordsTakenCyclically
  exact fun s k kw r rounds => permute_eq_foldl_steps32 (permute s k kw r) k kw rounds

/-! ### `permute` and the serial definition (R129) -/

theorem serialSteps_eq_foldl (k : KeyRegs) (kw n j : Nat) (b : BitVec 128) :
    serialSteps k kw n j b = (List.range n).foldl (fun b m => serialStep b (rawKeyBit k kw (j + m))) b := by
  induction n generalizing j b with
  | zero => rfl
  | succ n ih =>
    rw [serialSteps, ih, List.range_succ_eq_map, List.foldl_cons, List.foldl_map]
    simp only [Nat.add_zero, Nat.add_assoc, Nat.add_comm 1]

theorem serialSteps_add (k : KeyRegs) (kw m n j : Nat) (b : BitVec 128) :
    serialSteps k kw (m + n) j b = serialSteps k kw n (j + m) (serialSteps k kw m j b) := by
  simp only [serialSteps_eq_foldl, List.range_add, List.foldl_append, List.foldl_map, Nat.add_assoc]

/-- Steps `32·q` to `32·q + 31` take the bits of the raw word behind `K[q mod KW]`, from bit 0 (R123). -/
theorem rawKeyBit_word (k : KeyRegs) (kw q : Nat) {m : Nat} (hm : m < 32) :
    rawKeyBit k kw (32 * q + m) = (~~~(keyWord k (q % kw))).getLsbD m := by
  have hmod : (32 * q + m) % (32 * kw) = 32 * (q % kw) + m := by
    rw [Nat.mod_mul, Nat.mul_add_mod, Nat.mod_eq_of_lt hm, Nat.mul_add_div (by decide), Nat.div_eq_of_lt hm, Nat.add_zero,
      Nat.add_comm]
  have hword : (32 * (q % kw) + m) / 32 = q % kw := by omega
  have hbit : (32 * (q % kw) + m) % 32 = m := by omega
  simp only [rawKeyBit, hmod, hword, hbit, BitVec.getLsbD_not, hm, decide_true, Bool.true_and]

theorem serialSteps_32 (k : KeyRegs) (kw q : Nat) (s : Quad) :
    serialSteps k kw 32 (32 * q) (stateBits s) = stateBits (steps32 s (keyWord k (q % kw))) := by
  have hsteps := steps32IsThirtyTwoSteps s (~~~(keyWord k (q % kw)))
  rw [BitVec.not_not] at hsteps
  rw [serialSteps_eq_foldl, ← hsteps]
  exact List.foldl_ext _ _ _ fun b m hm => by rw [rawKeyBit_word k kw q (List.mem_range.1 hm)]

theorem serialSteps_words (k : KeyRegs) (kw n : Nat) (s : Quad) :
    serialSteps k kw (32 * n) 0 (stateBits s) =
      stateBits ((List.range n).foldl (fun s q => steps32 s (keyWord k (q % kw))) s) := by
  induction n with
  | zero => rfl
  | succ n ih => rw [Nat.mul_succ, serialSteps_add, ih, Nat.zero_add, serialSteps_32, List.range_succ, List.foldl_concat]

/-- R129 over the 128-bit register. -/
theorem serialSteps_eq_permute (k : KeyRegs) (kw rounds : Nat) (s : Quad) :
    serialSteps k kw (128 * rounds) 0 (stateBits s) = stateBits (permute s k kw rounds) := by
  have hsteps : 128 * rounds = 32 * (4 * rounds) := by omega
  rw [hsteps, serialSteps_words, permute_eq_foldl_steps32]

theorem permute_eq_permuteSerial (s : Quad) (k : KeyRegs) (kw rounds : Nat) :
    permute s k kw rounds = permuteSerial s k kw rounds := by
  rw [permuteSerial, serialSteps_eq_permute, bitsState_stateBits]

/-- Settles O9: the two folds, the serial form word by word of the key, and the source's vector by evaluation. -/
theorem permuteEqualsSerial : Obligations.PermuteEqualsSerial := by
  unfold Obligations.PermuteEqualsSerial
  refine ⟨fun s k kw rounds _ => ⟨?_, ?_, ?_⟩, by decide⟩
  · exact permute_eq_foldl_round128 s k kw rounds
  · exact permute_eq_foldl_steps32 s k kw rounds
  · exact permute_eq_permuteSerial s k kw rounds

/-! ### Inverses (R134) -/

/-- What `steps32` XORs into the word that leaves, and its inverse XORs out again: the taps on the three words that stay. -/
def tapMask (a b c kw : Word) : Word := funnel a b 15 ^^^ (funnel b c 6 &&& funnel b c 21) ^^^ funnel b c 27 ^^^ kw

theorem steps32_eq_tapMask (s : Quad) (kw : Word) :
    steps32 s kw = ⟨s.w1, s.w2, s.w3, s.w0 ^^^ tapMask s.w1 s.w2 s.w3 kw⟩ := by
  simp only [steps32, feedback32, tapMask, BitVec.xor_assoc]

theorem steps32Inverse_eq_tapMask (s : Quad) (kw : Word) :
    steps32Inverse s kw = ⟨s.w3 ^^^ tapMask s.w0 s.w1 s.w2 kw, s.w0, s.w1, s.w2⟩ := by
  simp only [steps32Inverse, tapMask, BitVec.xor_assoc]

theorem steps32Inverse_steps32 (s : Quad) (kw : Word) : steps32Inverse (steps32 s kw) kw = s := by
  simp [steps32_eq_tapMask, steps32Inverse_eq_tapMask]

theorem steps32_steps32Inverse (s : Quad) (kw : Word) : steps32 (steps32Inverse s kw) kw = s := by
  simp [steps32_eq_tapMask, steps32Inverse_eq_tapMask]

/-- The same for one serial step: the taps of R122 where `i = 1`, and, one bit further down, those of its inverse where `i = 0`. -/
def tapBit (b : BitVec 128) (kb : Bool) (i : Nat) : Bool :=
  b.getLsbD (46 + i) ^^ (true ^^ (b.getLsbD (69 + i) && b.getLsbD (84 + i))) ^^ b.getLsbD (90 + i) ^^ kb

theorem getLsbD_serialStep_last_eq_tapBit (b : BitVec 128) (kb : Bool) :
    (serialStep b kb).getLsbD 127 = (b.getLsbD 0 ^^ tapBit b kb 1) := by
  simp only [getLsbD_serialStep_last, serialFeedback, tapBit, Bool.xor_assoc]

theorem getLsbD_serialStepInverse_zero (b : BitVec 128) (kb : Bool) :
    (serialStepInverse b kb).getLsbD 0 = (b.getLsbD 127 ^^ tapBit b kb 0) := by
  rw [serialStepInverse, BitVec.append_eq, BitVec.getLsbD_append, if_pos Nat.one_pos, BitVec.getLsbD_ofBool]
  simp only [tapBit, Bool.xor_assoc, decide_true, Bool.true_and]

theorem getLsbD_serialStepInverse_succ (b : BitVec 128) (kb : Bool) {i : Nat} (hi : i < 127) :
    (serialStepInverse b kb).getLsbD (i + 1) = b.getLsbD i := by
  rw [serialStepInverse, BitVec.append_eq, BitVec.getLsbD_append, if_neg (by omega)]
  simp [hi]

theorem tapBit_serialStep (b : BitVec 128) (kb : Bool) : tapBit (serialStep b kb) kb 0 = tapBit b kb 1 := by
  simp (disch := decide) only [tapBit, getLsbD_serialStep_of_lt]

theorem tapBit_serialStepInverse (b : BitVec 128) (kb : Bool) : tapBit (serialStepInverse b kb) kb 1 = tapBit b kb 0 := by
  have shift {i : Nat} (hi : i < 127) := getLsbD_serialStepInverse_succ b kb hi
  simp only [tapBit, shift (show 46 < 127 by decide), shift (show 69 < 127 by decide), shift (show 84 < 127 by decide),
    shift (show 90 < 127 by decide)]

theorem serialStepInverse_serialStep (b : BitVec 128) (kb : Bool) : serialStepInverse (serialStep b kb) kb = b := by
  apply BitVec.eq_of_getLsbD_eq
  intro i hi
  cases i with
  | zero =>
    rw [getLsbD_serialStepInverse_zero, getLsbD_serialStep_last_eq_tapBit, tapBit_serialStep, Bool.xor_assoc, Bool.xor_self,
      Bool.xor_false]
  | succ i => rw [getLsbD_serialStepInverse_succ _ _ (by omega), getLsbD_serialStep_of_lt _ _ (by omega)]

theorem serialStep_serialStepInverse (b : BitVec 128) (kb : Bool) : serialStep (serialStepInverse b kb) kb = b := by
  apply BitVec.eq_of_getLsbD_eq
  intro i hi
  obtain rfl | hlt : i = 127 ∨ i < 127 := by omega
  · rw [getLsbD_serialStep_last_eq_tapBit, getLsbD_serialStepInverse_zero, tapBit_serialStepInverse, Bool.xor_assoc, Bool.xor_self,
      Bool.xor_false]
  · rw [getLsbD_serialStep_of_lt _ _ hlt, getLsbD_serialStepInverse_succ _ _ hlt]

theorem steps32_bijective (kw : Word) : Function.Bijective fun s => steps32 s kw :=
  Function.bijective_iff_has_inverse.2
    ⟨fun s => steps32Inverse s kw, fun s => steps32Inverse_steps32 s kw, fun s => steps32_steps32Inverse s kw⟩

theorem round128_bijective (k : KeyRegs) (kw j : Nat) : Function.Bijective (round128 k kw j) :=
  (steps32_bijective _).comp ((steps32_bijective _).comp ((steps32_bijective _).comp (steps32_bijective _)))

theorem permute_bijective (k : KeyRegs) (kw rounds : Nat) : Function.Bijective fun s => permute s k kw rounds := by
  induction rounds with
  | zero => exact Function.bijective_id
  | succ r ih =>
    simp only [permute_succ]
    exact (round128_bijective k kw (4 * r)).comp ih

/-- Settles O10: `steps32` has a two-sided inverse, so a composition of `steps32` is a bijection. -/
theorem permuteIsBijection : Obligations.PermuteIsBijection := by
  unfold Obligations.PermuteIsBijection
  refine ⟨permute_bijective, fun b kb => ⟨?_, ?_⟩, fun s kw => ⟨?_, ?_⟩⟩
  · exact serialStepInverse_serialStep b kb
  · exact serialStep_serialStepInverse b kb
  · exact steps32Inverse_steps32 s kw
  · exact steps32_steps32Inverse s kw

/-! ### Fixed points (R135) -/

/-- A state that every `steps32` of a call fixes is fixed by the call. -/
theorem permute_fixed {s : Quad} {k : KeyRegs} {kw : Nat} (rounds : Nat) (hfixed : ∀ q, steps32 s (keyWord k (q % kw)) = s) :
    permute s k kw rounds = s := by
  rw [permute_eq_foldl_steps32]
  exact List.foldl_fixed' hfixed _

theorem keyWord_zero (i : Nat) : keyWord ⟨0, 0, 0, 0, 0, 0, 0, 0⟩ i = 0 := by
  unfold keyWord
  split <;> rfl

theorem steps32_zeros : steps32 ⟨0, 0, 0, 0⟩ 0 = ⟨0, 0, 0, 0⟩ := by decide

theorem steps32_ones : steps32 ⟨0xFFFFFFFF, 0xFFFFFFFF, 0xFFFFFFFF, 0xFFFFFFFF⟩ 0xFFFFFFFF =
    ⟨0xFFFFFFFF, 0xFFFFFFFF, 0xFFFFFFFF, 0xFFFFFFFF⟩ := by decide

/-- Settles O11: one `steps32` fixes each of the two states under the key words in use; the one-round value by evaluation. -/
theorem permuteFixedPoints : Obligations.PermuteFixedPoints := by
  unfold Obligations.PermuteFixedPoints
  refine ⟨fun kw rounds => ?_, fun k kw rounds hkw hones => ?_, by decide⟩
  · refine permute_fixed rounds fun q => ?_
    rw [keyWord_zero, steps32_zeros]
  · refine permute_fixed rounds fun q => ?_
    rw [hones _ (Nat.mod_lt q hkw), steps32_ones]

/-! ### Splitting a call (R130) -/

/-- A round reads its key index modulo `KW` only. -/
theorem round128_congr {kw i j : Nat} (h : i % kw = j % kw) (k : KeyRegs) (s : Quad) :
    round128 k kw i s = round128 k kw j s := by
  have hword (m : Nat) : (i + m) % kw = (j + m) % kw := Nat.ModEq.add_right m h
  simp only [round128, hword]

theorem permuteFrom_congr {kw i j : Nat} (h : i % kw = j % kw) (k : KeyRegs) (r : Nat) (s : Quad) :
    permuteFrom k kw r i s = permuteFrom k kw r j s := by
  induction r generalizing i j s with
  | zero => rfl
  | succ r ih => rw [permuteFrom, permuteFrom, round128_congr h, ih (Nat.ModEq.add_right 4 h)]

theorem permute_add_of_mod_eq_zero (s : Quad) (k : KeyRegs) {kw a : Nat} (b : Nat) (h : 4 * a % kw = 0) :
    permute s k kw (a + b) = permute (permute s k kw a) k kw b := by
  rw [permute_add]
  exact permuteFrom_congr (h.trans (Nat.zero_mod kw).symm) k b _

/-- Settles O12. With `KW = 6` the second round starts at `K[4]`, a second call at `K[0]`; the schedule with `K[0]` alone nonzero tells
them apart. -/
theorem permuteSplitsAtPattern : Obligations.PermuteSplitsAtPattern := by
  unfold Obligations.PermuteSplitsAtPattern
  refine ⟨permute_zero, fun s k kw a b _ h => permute_add_of_mod_eq_zero s k b h, ?_⟩
  exact ⟨⟨0, 0, 0, 0⟩, ⟨1, 0, 0, 0, 0, 0, 0, 0⟩, 1, 1, by decide⟩

/-! ### The key schedule and the raw key bits (R123, R132) -/

theorem keyWord_keySchedule (key : List Byte) {i : Nat} (hi : i < 8) :
    keyWord (keySchedule key) i = if i < key.length / 4 then ~~~(le32 key (4 * i)) else 0 := by
  match i, hi with
  | 0, _ | 1, _ | 2, _ | 3, _ | 4, _ | 5, _ | 6, _ | 7, _ => rfl

/-- Settles O15, by what `loadKey` writes and the eight words of the schedule. -/
theorem keyScheduleInvertsWords : Obligations.KeyScheduleInvertsWords := by
  unfold Obligations.KeyScheduleInvertsWords
  intro key e i _ hi
  exact ⟨loadKey_kw key e, by rw [loadKey_k, keyWord_keySchedule key hi]⟩

/-- R62: bit `m` of a little-endian word is bit `m mod 8` of its byte `m div 8`. -/
theorem getLsbD_le32 (b : List Byte) (o : Nat) {m : Nat} (hm : m < 32) :
    (le32 b o).getLsbD m = (byteAt b (o + m / 8)).getLsbD (m % 8) := by
  have hbeyond (i n : Nat) (hn : 8 ≤ n) : (byteAt b i).getLsbD n = false := BitVec.getLsbD_of_ge _ _ hn
  obtain ⟨r, hr, q, hq, rfl⟩ : ∃ r < 8, ∃ q < 4, m = 8 * q + r :=
    ⟨m % 8, Nat.mod_lt _ (by decide), m / 8, by omega, (Nat.div_add_mod m 8).symm⟩
  have hdiv : (8 * q + r) / 8 = q := by omega
  have hmod : (8 * q + r) % 8 = r := by omega
  rw [hdiv, hmod]
  simp only [le32, BitVec.getLsbD_or, BitVec.getLsbD_shiftLeft, BitVec.getLsbD_setWidth]
  interval_cases q <;> grind

theorem rawKeyBit_eq_keyWord (k : KeyRegs) (kw j : Nat) :
    rawKeyBit k kw j = !(keyWord k (j % (32 * kw) / 32)).getLsbD (j % (32 * kw) % 32) := rfl

/-- Settles O14: below `8·len(key)` the schedule holds the complement of a key word, whose bits are those of the key bytes. -/
theorem rawKeyBitsAreKeyBytes : Obligations.RawKeyBitsAreKeyBytes := by
  unfold Obligations.RawKeyBitsAreKeyBytes
  intro key j hlen n
  have hbits : 32 * (key.length / 4) = 8 * key.length := by omega
  have hn : n < 8 * key.length := Nat.mod_lt j (by omega)
  have hbit : n % 32 < 32 := Nat.mod_lt n (by decide)
  have hschedule : rawKeyBit (keySchedule key) (key.length / 4) j = !(keyWord (keySchedule key) (n / 32)).getLsbD (n % 32) := by
    rw [rawKeyBit_eq_keyWord, hbits]
  have hwords : rawKeyBit (keySchedule key) (key.length / 4) j = (le32 key (4 * (n / 32))).getLsbD (n % 32) := by
    rw [hschedule, keyWord_keySchedule key (by omega), if_pos (by omega), BitVec.getLsbD_not]
    simp [hbit]
  refine ⟨hschedule, hwords, ?_⟩
  have hbyte : 4 * (n / 32) + n % 32 / 8 = n / 8 := by omega
  have hbitInByte : n % 32 % 8 = n % 8 := by omega
  rw [hwords, getLsbD_le32 key _ hbit, hbyte, hbitInByte]

end Sys2Proof.Permutation

/-! ## The sponge (41_sponge.md)

`absorb` takes four bytes at a time, so both statements are inductions along its own recursion. R160 turns on one fact: to absorb a string
is to absorb it filled up with zeros to whole groups and then to add the length of the partial group to `S[1]`. -/

namespace Sys2Proof.SpongeAbsorb

open Sys2Proof.Machine Sys2Proof.Claims

/-! ### The first group of a string and its words (R62, R63, R155) -/

/-- A string that does not split into a group and a rest is shorter than a group. -/
theorem length_lt_four_of_no_group {tail : List Byte} (h : ∀ b0 b1 b2 b3 rest, tail ≠ b0 :: b1 :: b2 :: b3 :: rest) :
    tail.length < 4 := by
  match tail, h with
  | [], _ | [_], _ | [_, _], _ | [_, _, _], _ => simp
  | b0 :: b1 :: b2 :: b3 :: rest, h => exact absurd rfl (h b0 b1 b2 b3 rest)

theorem length_four_cons_mod (b0 b1 b2 b3 : Byte) (rest : List Byte) :
    (b0 :: b1 :: b2 :: b3 :: rest).length % 4 = rest.length % 4 := Nat.add_mod_right rest.length 4

theorem length_four_cons_div (b0 b1 b2 b3 : Byte) (rest : List Byte) :
    (b0 :: b1 :: b2 :: b3 :: rest).length / 4 = rest.length / 4 + 1 := Nat.add_div_right rest.length (Nat.succ_pos 3)

/-- Past the first group the words of a string are those of the rest. -/
theorem le32_four_cons_succ (b0 b1 b2 b3 : Byte) (rest : List Byte) (i : Nat) :
    le32 (b0 :: b1 :: b2 :: b3 :: rest) (4 * (i + 1)) = le32 rest (4 * i) := by
  simp only [le32, byteAt, Nat.mul_succ, Nat.add_right_comm _ 4, List.getD_cons_succ]

/-- A partial word is the word of its group filled up with zeros. -/
theorem lepart_eq_le32_padGroups {tail : List Byte} (h4 : tail.length < 4) :
    lepart tail 0 tail.length = le32 (padGroups tail) 0 := by
  match tail, h4 with
  | [], _ => rfl
  | [_], _ | [_, _], _ | [_, _, _], _ => simp [lepart, le32, padGroups, byteAt, List.replicate]

/-! ### Groups by index (R155) -/

/-- Group `i` of `data` absorbed: domain, permutation, word. -/
def absorbGroupAt (d : Byte) (rounds : Nat) (data : List Byte) (e : Engine) (i : Nat) : Engine :=
  absorbWord (le32 data (4 * i)) (runPermute rounds (addDomain d e))

/-- The first `n` groups of `data` in increasing order. -/
def absorbGroups (d : Byte) (rounds : Nat) (data : List Byte) (n : Nat) (e : Engine) : Engine :=
  (List.range n).foldl (absorbGroupAt d rounds data) e

theorem absorbGroups_four_cons_succ (d : Byte) (rounds : Nat) (b0 b1 b2 b3 : Byte) (rest : List Byte) (n : Nat) (e : Engine) :
    absorbGroups d rounds (b0 :: b1 :: b2 :: b3 :: rest) (n + 1) e =
      absorbGroups d rounds rest n (absorbWord (le32 [b0, b1, b2, b3] 0) (runPermute rounds (addDomain d e))) := by
  simp only [absorbGroups, List.range_succ_eq_map, List.foldl_cons, List.foldl_map, absorbGroupAt, Nat.succ_eq_add_one,
    le32_four_cons_succ]
  rfl

theorem absorb_eq_absorbGroups (d : Byte) (rounds : Nat) (data : List Byte) (e : Engine) :
    absorb d rounds data e =
      if data.length % 4 = 0 then absorbGroups d rounds data (data.length / 4) e
      else absorbPartial d rounds (data.drop (4 * (data.length / 4))) (absorbGroups d rounds data (data.length / 4) e) := by
  induction data, e using absorb.induct d rounds with
  | case1 b0 b1 b2 b3 rest e ih =>
    rw [absorb_group, ih, length_four_cons_mod, length_four_cons_div, absorbGroups_four_cons_succ]
    rfl
  | case2 e => rfl
  | case3 tail e hfour hnil =>
    have h4 : tail.length < 4 := length_lt_four_of_no_group hfour
    have h0 : tail.length ≠ 0 := by simpa using hnil
    rw [absorb_tail d rounds tail e hnil h4, Nat.mod_eq_of_lt h4, if_neg h0, Nat.div_eq_of_lt h4]
    rfl

/-- Settles O17: the model's recursion over the bytes, unrolled into the loop over the group indices. -/
theorem absorbTakesGroupsInOrder : Obligations.AbsorbTakesGroupsInOrder := by
  unfold Obligations.AbsorbTakesGroupsInOrder
  exact absorb_eq_absorbGroups

/-! ### Padding (R160) -/

theorem addDomain_zero (e : Engine) : addDomain 0 e = e := by
  simp [addDomain]

theorem padGroups_four_cons (b0 b1 b2 b3 : Byte) (rest : List Byte) :
    padGroups (b0 :: b1 :: b2 :: b3 :: rest) = b0 :: b1 :: b2 :: b3 :: padGroups rest := by
  rw [padGroups, padGroups, length_four_cons_mod]
  rfl

/-- A partial group is absorbed as the full group of its padding, then told apart from it by its separator (R156). -/
theorem absorbPartial_eq_addDomain (d : Byte) (rounds : Nat) {tail : List Byte} (e : Engine) (h0 : tail ≠ [])
    (h4 : tail.length < 4) :
    absorbPartial d rounds tail e = addDomain (secondaryDomain tail.length) (absorb d rounds (padGroups tail) e) := by
  rw [absorbPartial, lepart_eq_le32_padGroups h4]
  match tail, h0, h4 with
  | [_], _, _ | [_, _], _, _ | [_, _, _], _, _ => rfl

/-- To absorb a string is to absorb its padding and then to add the number of bytes in its partial group to `S[1]`. -/
theorem absorb_eq_addDomain_absorb_padGroups (d : Byte) (rounds : Nat) (data : List Byte) (e : Engine) :
    absorb d rounds data e = addDomain (secondaryDomain (data.length % 4)) (absorb d rounds (padGroups data) e) := by
  induction data, e using absorb.induct d rounds with
  | case1 b0 b1 b2 b3 rest e ih =>
    rw [padGroups_four_cons, absorb_group, absorb_group, length_four_cons_mod, ih]
  | case2 e => exact (addDomain_zero e).symm
  | case3 tail e hfour hnil =>
    have h4 : tail.length < 4 := length_lt_four_of_no_group hfour
    rw [absorb_tail d rounds tail e hnil h4, Nat.mod_eq_of_lt h4, absorbPartial_eq_addDomain d rounds e hnil h4]

/-- A separator enters `S[1]` as the number of bytes in the partial group (R159). -/
theorem addDomain_secondaryDomain_w1 (n : Nat) (e : Engine) :
    (addDomain (secondaryDomain (n % 4)) e).s.w1 = e.s.w1 ^^^ BitVec.ofNat 32 (n % 4) := by
  rw [addDomain_s, secondaryDomain, BitVec.setWidth_ofNat_of_le_of_lt (by decide) (by omega)]

/-- Two lengths of as many groups are told apart by their partial groups. -/
theorem mod_four_ne_of_groupCount_eq {m n : Nat} (hne : m ≠ n) (hgroups : groupCount m = groupCount n) : m % 4 ≠ n % 4 := by
  unfold groupCount at hgroups
  omega

theorem xor_ofNat_mod_four_ne (w : Word) {m n : Nat} (h : m % 4 ≠ n % 4) :
    w ^^^ BitVec.ofNat 32 (m % 4) ≠ w ^^^ BitVec.ofNat 32 (n % 4) := by
  rw [Ne, BitVec.xor_right_inj, ← BitVec.toNat_inj, BitVec.toNat_ofNat, BitVec.toNat_ofNat]
  omega

theorem xor_xor_xor_cancel_left (w p q : Word) : w ^^^ p ^^^ (w ^^^ q) = p ^^^ q := by
  rw [BitVec.xor_comm w p, BitVec.xor_assoc, ← BitVec.xor_assoc w, BitVec.xor_self, BitVec.zero_xor]

/-- Settles O18: both strings leave the state of their common padding, but for the length each adds to `S[1]`. -/
theorem paddingIsInjective : Obligations.PaddingIsInjective := by
  unfold Obligations.PaddingIsInjective
  intro d rounds a b e hne hgroups hpad
  have hmod : a.length % 4 ≠ b.length % 4 := mod_four_ne_of_groupCount_eq hne hgroups
  rw [absorb_eq_addDomain_absorb_padGroups d rounds a, absorb_eq_addDomain_absorb_padGroups d rounds b, hpad,
    addDomain_secondaryDomain_w1, addDomain_secondaryDomain_w1]
  exact ⟨rfl, rfl, rfl, xor_xor_xor_cancel_left _ _ _, xor_ofNat_mod_four_ne _ hmod⟩

end Sys2Proof.SpongeAbsorb

/-! ## A group under a keystream word (20_memory.md R61 to R64, 42_aead.md R181 to R185, 43_siv.md R212)

Both modes treat a group of 1 to 4 bytes alike, in both directions: its bytes XOR those of a keystream word. The word forms of the
rules, with their little-endian loads, stores and masks, are brought to that form here. -/

namespace Sys2Proof.GroupCipher

open Sys2Proof.Machine Sys2Proof.Claims

/-! ### The word of a group and its bytes -/

theorem getLsbD_lepart (b : List Byte) (o i : Nat) {r : Nat} (hr : r ≤ 4) :
    (lepart b o r).getLsbD i = (decide (i < 8 * r) && (byteAt b (o + i / 8)).getLsbD (i % 8)) := by
  induction r with
  | zero => simp [lepart]
  | succ r ih =>
    have hbeyond (n : Nat) (hn : 8 ≤ n) : (byteAt b (o + r)).getLsbD n = false := BitVec.getLsbD_of_ge _ _ hn
    rw [lepart, BitVec.getLsbD_or, ih (by omega), BitVec.getLsbD_shiftLeft, BitVec.getLsbD_setWidth]
    grind

theorem le32_eq_lepart (b : List Byte) : le32 b 0 = lepart b 0 4 := by
  simp [le32, lepart]

theorem extractLsb'_lepart (b : List Byte) {r j : Nat} (hr : r ≤ 4) (hj : j < r) :
    (lepart b 0 r).extractLsb' (8 * j) 8 = byteAt b j := by
  apply BitVec.eq_of_getLsbD_eq
  intro i hi
  have hdiv : (8 * j + i) / 8 = j := by omega
  have hmod : (8 * j + i) % 8 = i := by omega
  have hlt : 8 * j + i < 8 * r := by omega
  rw [BitVec.getLsbD_extractLsb', getLsbD_lepart b 0 _ hr, Nat.zero_add, hdiv, hmod]
  simp [hi, hlt]

theorem length_lowbytes (w : Word) {r : Nat} (hr : r ≤ 4) : (lowbytes w r).length = r := by
  simpa [lowbytes, bytes32] using hr

theorem byteAt_lowbytes (w : Word) {r j : Nat} (hr : r ≤ 4) (hj : j < r) :
    byteAt (lowbytes w r) j = w.extractLsb' (8 * j) 8 := by
  have h4 : j < 4 := by omega
  rw [byteAt, lowbytes, List.getD_eq_getElem?_getD, List.getElem?_take_of_lt hj]
  interval_cases j <;> rfl

/-- R63 and R64: storing the word of a group gives the group back. -/
theorem lowbytes_lepart {g : List Byte} (h4 : g.length ≤ 4) : lowbytes (lepart g 0 g.length) g.length = g := by
  apply List.ext_getElem (length_lowbytes _ h4)
  intro j hj hjg
  have hbyte := byteAt_lowbytes (lepart g 0 g.length) h4 hjg
  rw [extractLsb'_lepart g h4 hjg] at hbyte
  simpa [byteAt, List.getD_eq_getElem?_getD, hj, hjg] using hbyte

theorem getLsbD_groupMask (r i : Nat) : (groupMask r).getLsbD i = decide (i < 32 ∧ i < 8 * r) := by
  simp [groupMask, BitVec.getLsbD_ofNat, Nat.testBit_two_pow_sub_one]

/-- R185: loading the stored low bytes of a word masks it to them. -/
theorem lepart_lowbytes (w : Word) {r : Nat} (hr : r ≤ 4) : lepart (lowbytes w r) 0 r = w &&& groupMask r := by
  apply BitVec.eq_of_getLsbD_eq
  intro i hi
  rw [getLsbD_lepart _ _ _ hr, BitVec.getLsbD_and, getLsbD_groupMask]
  by_cases hlt : i < 8 * r
  · rw [Nat.zero_add, byteAt_lowbytes w hr (by omega), BitVec.getLsbD_extractLsb', Nat.div_add_mod]
    simp [hlt, hi, Nat.mod_lt]
  · simp [hlt]

/-! ### XOR of byte strings -/

theorem length_xorBytes {a b : List Byte} (h : a.length ≤ b.length) : (xorBytes a b).length = a.length := by
  simpa [xorBytes] using h

theorem xorBytes_xorBytes {a b : List Byte} (h : a.length ≤ b.length) : xorBytes (xorBytes a b) b = a := by
  apply List.ext_getElem
  · simpa [xorBytes] using h
  · simp [xorBytes]

theorem xorBytes_take_length (a b : List Byte) : xorBytes a (b.take a.length) = xorBytes a b := by
  apply List.ext_getElem <;> simp [xorBytes]

theorem bytes32_xor (v w : Word) : bytes32 (v ^^^ w) = xorBytes (bytes32 v) (bytes32 w) := by
  simp [bytes32, xorBytes, BitVec.extractLsb'_xor]

/-! ### A group enciphered -/

/-- A group enciphered, or deciphered, under a keystream word. -/
def cryptGroup (k : Word) (g : List Byte) : List Byte := xorBytes g (bytes32 k)

theorem length_cryptGroup (k : Word) {g : List Byte} (h4 : g.length ≤ 4) : (cryptGroup k g).length = g.length :=
  length_xorBytes h4

theorem cryptGroup_cryptGroup (k : Word) {g : List Byte} (h4 : g.length ≤ 4) : cryptGroup k (cryptGroup k g) = g :=
  xorBytes_xorBytes h4

theorem cryptGroup_ne_nil (k : Word) {g : List Byte} (h0 : g ≠ []) (h4 : g.length ≤ 4) : cryptGroup k g ≠ [] := by
  rwa [← List.length_pos_iff, length_cryptGroup k h4, List.length_pos_iff]

/-- The output of `encrypt_partial`, and of `siv_stream` on a partial group (R182, R212). -/
theorem lowbytes_lepart_xor (k : Word) {g : List Byte} (h4 : g.length ≤ 4) :
    lowbytes (lepart g 0 g.length ^^^ k) g.length = cryptGroup k g := by
  have hg : (bytes32 (lepart g 0 g.length)).take g.length = g := lowbytes_lepart h4
  rw [lowbytes, bytes32_xor, xorBytes, List.take_zipWith, hg]
  exact xorBytes_take_length g (bytes32 k)

/-- The word `decrypt_partial` recovers (R185). -/
theorem lepart_cryptGroup (k : Word) {g : List Byte} (h4 : g.length ≤ 4) :
    lepart (cryptGroup k g) 0 g.length = (lepart g 0 g.length ^^^ k) &&& groupMask g.length := by
  rw [← lowbytes_lepart_xor k h4, lepart_lowbytes _ h4]

/-- The output of `encrypt_word` and `decrypt_word`, and of `siv_stream` on a full group (R181, R184, R212). -/
theorem bytes32_le32_xor (k : Word) {g : List Byte} (h4 : g.length = 4) : bytes32 (le32 g 0 ^^^ k) = cryptGroup k g := by
  rw [← lowbytes_lepart_xor k h4.le, h4, ← le32_eq_lepart]
  rfl

/-- The word `decrypt_word` recovers (R184). -/
theorem le32_cryptGroup (k : Word) {g : List Byte} (h4 : g.length = 4) : le32 (cryptGroup k g) 0 = le32 g 0 ^^^ k := by
  have hword := lepart_cryptGroup k h4.le
  rw [h4, ← le32_eq_lepart, ← le32_eq_lepart] at hword
  exact hword.trans BitVec.and_allOnes

/-! ### Strings by their groups -/

/-- Induction along the groups of a string: nothing, a full group and the rest, a last group of 1 to 3 bytes (R155). -/
theorem groups_induction {motive : List Byte → Prop} (nil : motive [])
    (group : ∀ g rest : List Byte, g.length = 4 → motive rest → motive (g ++ rest))
    (tail : ∀ g : List Byte, g ≠ [] → g.length < 4 → motive g) : ∀ data, motive data
  | b0 :: b1 :: b2 :: b3 :: rest => group [b0, b1, b2, b3] rest rfl (groups_induction nil group tail rest)
  | [] => nil
  | [_] | [_, _] | [_, _, _] => tail _ (by simp) (by simp)

/-! ### The keystream pass of SIV (R212) -/

theorem streamGroups_group (rc : RoundCounts) {g : List Byte} (rest : List Byte) (e : Engine) (h4 : g.length = 4) :
    streamGroups rc (g ++ rest) e =
      (cryptGroup (squeezeWord (nextSivBlock rc e)) g ++ (streamGroups rc rest (nextSivBlock rc e)).1,
        (streamGroups rc rest (nextSivBlock rc e)).2) := by
  rw [← bytes32_le32_xor _ h4]
  match g, h4 with
  | [_, _, _, _], _ => rfl

theorem streamGroups_tail (rc : RoundCounts) {g : List Byte} (e : Engine) (h0 : g ≠ []) (h4 : g.length < 4) :
    streamGroups rc g e = (cryptGroup (squeezeWord (nextSivBlock rc e)) g, nextSivBlock rc e) := by
  rw [← lowbytes_lepart_xor _ h4.le]
  match g, h0, h4 with
  | [_], _, _ | [_, _], _, _ | [_, _, _], _, _ => rfl

theorem length_streamGroups (rc : RoundCounts) (data : List Byte) (e : Engine) :
    (streamGroups rc data e).1.length = data.length := by
  induction data using groups_induction generalizing e with
  | nil => rfl
  | group g rest h4 ih => rw [streamGroups_group rc rest e h4, List.length_append, length_cryptGroup _ h4.le, ih, List.length_append]
  | tail g h0 h4 => rw [streamGroups_tail rc e h0 h4, length_cryptGroup _ h4.le]

theorem length_sivStream (rc : RoundCounts) (data : List Byte) (e : Engine) : (sivStream rc data e).1.length = data.length :=
  length_streamGroups rc data _

/-- R24: a tag is 8 bytes. -/
theorem length_tagBytes (e : Engine) : (tagBytes e).length = 8 := rfl

end Sys2Proof.GroupCipher

/-! ## The AEAD functions (42_aead.md)

Encryption and decryption walk over the message with the same keystream and absorb the same plaintext, so on one engine they undo each
other exactly; and neither reads anything of the engine it starts from. -/

namespace Sys2Proof.AeadMode

open Sys2Proof.Machine Sys2Proof.Claims Sys2Proof.SpongeAbsorb Sys2Proof.GroupCipher

/-! ### One message group -/

/-- The keystream word of the next message group (R181, R184). -/
def msgKeystream (rc : RoundCounts) (e : Engine) : Word := squeezeWord (nextMsgBlock rc e)

/-- The engine after a message group whose plaintext is `g`, full or partial (R181, R182, R184, R185). -/
def afterMsgGroup (rc : RoundCounts) (g : List Byte) (e : Engine) : Engine :=
  addDomain (secondaryDomain (g.length % 4)) (absorbWord (lepart g 0 g.length) (nextMsgBlock rc e))

theorem afterMsgGroup_full (rc : RoundCounts) {g : List Byte} (e : Engine) (h4 : g.length = 4) :
    afterMsgGroup rc g e = absorbWord (le32 g 0) (nextMsgBlock rc e) := by
  rw [afterMsgGroup, h4, ← le32_eq_lepart]
  exact addDomain_zero _

theorem afterMsgGroup_partial (rc : RoundCounts) {g : List Byte} (e : Engine) (h4 : g.length < 4) :
    afterMsgGroup rc g e =
      addDomain (secondaryDomain g.length) (absorbWord (lepart g 0 g.length) (nextMsgBlock rc e)) := by
  rw [afterMsgGroup, Nat.mod_eq_of_lt h4]

theorem encryptGroups_group (rc : RoundCounts) {g : List Byte} (rest : List Byte) (e : Engine) (h4 : g.length = 4) :
    encryptGroups rc (g ++ rest) e =
      (cryptGroup (msgKeystream rc e) g ++ (encryptGroups rc rest (afterMsgGroup rc g e)).1,
        (encryptGroups rc rest (afterMsgGroup rc g e)).2) := by
  rw [← bytes32_le32_xor _ h4, afterMsgGroup_full rc e h4]
  match g, h4 with
  | [_, _, _, _], _ => rfl

theorem encryptGroups_tail (rc : RoundCounts) {g : List Byte} (e : Engine) (h0 : g ≠ []) (h4 : g.length < 4) :
    encryptGroups rc g e = (cryptGroup (msgKeystream rc e) g, afterMsgGroup rc g e) := by
  rw [← lowbytes_lepart_xor _ h4.le, afterMsgGroup_partial rc e h4]
  match g, h0, h4 with
  | [_], _, _ | [_, _], _, _ | [_, _, _], _, _ => rfl

/-- A ciphertext group is taken as its plaintext is, but for what comes out: `p` is absorbed. -/
theorem decryptGroups_group (rc : RoundCounts) {g : List Byte} (rest : List Byte) (e : Engine) (h4 : g.length = 4) :
    decryptGroups rc (g ++ rest) e =
      let p := cryptGroup (msgKeystream rc e) g
      (p ++ (decryptGroups rc rest (afterMsgGroup rc p e)).1, (decryptGroups rc rest (afterMsgGroup rc p e)).2) := by
  have hlen : (cryptGroup (msgKeystream rc e) g).length = 4 := (length_cryptGroup _ h4.le).trans h4
  simp only [afterMsgGroup_full rc e hlen]
  rw [le32_cryptGroup _ h4, ← bytes32_le32_xor _ h4]
  match g, h4 with
  | [_, _, _, _], _ => rfl

theorem decryptGroups_tail (rc : RoundCounts) {g : List Byte} (e : Engine) (h0 : g ≠ []) (h4 : g.length < 4) :
    decryptGroups rc g e =
      let p := cryptGroup (msgKeystream rc e) g
      (p, afterMsgGroup rc p e) := by
  have hpartial : decryptGroups rc g e = decryptPartial rc g e := by
    match g, h0, h4 with
    | [_], _, _ | [_, _], _, _ | [_, _, _], _, _ => rfl
  have hlen : (cryptGroup (msgKeystream rc e) g).length = g.length := length_cryptGroup _ h4.le
  have hword : lepart (cryptGroup (msgKeystream rc e) g) 0 g.length =
      (lepart g 0 g.length ^^^ squeezeWord (nextMsgBlock rc e)) &&& groupMask g.length := lepart_cryptGroup _ h4.le
  have hbytes := lowbytes_lepart (hlen.trans_lt h4).le
  rw [hlen] at hbytes
  simp only [hpartial, decryptPartial, ← hword, hbytes, afterMsgGroup_partial rc e (hlen.trans_lt h4), hlen]

/-! ### A message there and back -/

theorem decryptGroups_encryptGroups (rc : RoundCounts) (pt : List Byte) (e : Engine) :
    decryptGroups rc (encryptGroups rc pt e).1 e = (pt, (encryptGroups rc pt e).2) := by
  induction pt using groups_induction generalizing e with
  | nil => rfl
  | group g rest h4 ih =>
    rw [encryptGroups_group rc rest e h4, decryptGroups_group rc _ e ((length_cryptGroup _ h4.le).trans h4)]
    simp only [cryptGroup_cryptGroup _ h4.le, ih]
  | tail g h0 h4 =>
    rw [encryptGroups_tail rc e h0 h4,
      decryptGroups_tail rc e (cryptGroup_ne_nil _ h0 h4.le) ((length_cryptGroup _ h4.le).trans_lt h4)]
    simp only [cryptGroup_cryptGroup _ h4.le]

theorem encryptGroups_decryptGroups (rc : RoundCounts) (ct : List Byte) (e : Engine) :
    encryptGroups rc (decryptGroups rc ct e).1 e = (ct, (decryptGroups rc ct e).2) := by
  induction ct using groups_induction generalizing e with
  | nil => rfl
  | group g rest h4 ih =>
    simp only [decryptGroups_group rc rest e h4, encryptGroups_group rc _ e ((length_cryptGroup _ h4.le).trans h4),
      cryptGroup_cryptGroup _ h4.le, ih]
  | tail g h0 h4 =>
    simp only [decryptGroups_tail rc e h0 h4, cryptGroup_cryptGroup _ h4.le,
      encryptGroups_tail rc e (cryptGroup_ne_nil _ h0 h4.le) ((length_cryptGroup _ h4.le).trans_lt h4)]

theorem length_encryptGroups (rc : RoundCounts) (pt : List Byte) (e : Engine) :
    (encryptGroups rc pt e).1.length = pt.length := by
  induction pt using groups_induction generalizing e with
  | nil => rfl
  | group g rest h4 ih => rw [encryptGroups_group rc rest e h4, List.length_append, length_cryptGroup _ h4.le, ih, List.length_append]
  | tail g h0 h4 => rw [encryptGroups_tail rc e h0 h4, length_cryptGroup _ h4.le]

/-! ### The functions by their parts -/

/-- The tag after the message (R180, R183). -/
def aeadTag (rc : RoundCounts) (e : Engine) : List Byte := tagBytes (generateTag rc (enterPhase .finalize e))

theorem length_aeadTag (rc : RoundCounts) (e : Engine) : (aeadTag rc e).length = 8 := length_tagBytes _

theorem aeadEncrypt_fst (rc : RoundCounts) (key nonce ad pt : List Byte) (e : Engine) :
    (aeadEncrypt rc key nonce ad pt e).1 =
      (encryptGroups rc pt (aeadStart rc key nonce ad e)).1 ++ aeadTag rc (encryptGroups rc pt (aeadStart rc key nonce ad e)).2 := rfl

/-- R186. -/
theorem tagEqual_iff (a b : List Byte) : tagEqual a b = true ↔ a = b := beq_iff_eq

theorem aeadDecrypt_short (rc : RoundCounts) (key nonce ad : List Byte) {x : List Byte} (e : Engine) (h8 : x.length < 8) :
    (aeadDecrypt rc key nonce ad x e).1 = .lengthError := by
  rw [aeadDecrypt, if_pos h8]

theorem aeadDecrypt_append (rc : RoundCounts) (key nonce ad ct : List Byte) {tag : List Byte} (e : Engine) (h8 : tag.length = 8) :
    (aeadDecrypt rc key nonce ad (ct ++ tag) e).1 =
      let p := decryptGroups rc ct (aeadStart rc key nonce ad e)
      if tagEqual (aeadTag rc p.2) tag then .plaintext p.1 else .authenticationFailure := by
  have hlen : (ct ++ tag).length - 8 = ct.length := by simp [h8]
  rw [aeadDecrypt, if_neg (by simp [h8])]
  simp only [hlen, List.take_left, List.drop_left]
  rfl

/-- An input of at least 8 bytes is a ciphertext and a tag (R183). -/
theorem exists_ciphertext_tag {x : List Byte} (h8 : 8 ≤ x.length) : ∃ ct tag : List Byte, x = ct ++ tag ∧ tag.length = 8 :=
  ⟨x.take (x.length - 8), x.drop (x.length - 8), (List.take_append_drop _ x).symm, by rw [List.length_drop]; omega⟩

theorem length_aeadEncrypt (rc : RoundCounts) (key nonce ad pt : List Byte) (e : Engine) :
    (aeadEncrypt rc key nonce ad pt e).1.length = pt.length + 8 := by
  rw [aeadEncrypt_fst, List.length_append, length_encryptGroups, length_aeadTag]

theorem aeadDecrypt_eq_lengthError_iff (rc : RoundCounts) (key nonce ad x : List Byte) (e : Engine) :
    (aeadDecrypt rc key nonce ad x e).1 = .lengthError ↔ x.length < 8 := by
  refine ⟨fun h => ?_, aeadDecrypt_short rc key nonce ad e⟩
  by_contra h8
  obtain ⟨ct, tag, rfl, htag⟩ := exists_ciphertext_tag (not_lt.1 h8)
  rw [aeadDecrypt_append rc key nonce ad ct e htag] at h
  dsimp only at h
  split at h <;> contradiction

/-! ### Authentication on one engine -/

theorem aeadDecrypt_aeadEncrypt (rc : RoundCounts) (key nonce ad pt : List Byte) (e : Engine) :
    (aeadDecrypt rc key nonce ad (aeadEncrypt rc key nonce ad pt e).1 e).1 = .plaintext pt := by
  rw [aeadEncrypt_fst, aeadDecrypt_append rc key nonce ad _ e (length_aeadTag rc _)]
  simp only [decryptGroups_encryptGroups, if_pos ((tagEqual_iff _ _).2 rfl)]

theorem aeadEncrypt_of_aeadDecrypt {rc : RoundCounts} {key nonce ad x pt : List Byte} {e : Engine}
    (h : (aeadDecrypt rc key nonce ad x e).1 = .plaintext pt) : (aeadEncrypt rc key nonce ad pt e).1 = x := by
  have h8 : 8 ≤ x.length := by
    by_contra hshort
    rw [aeadDecrypt_short rc key nonce ad e (not_le.1 hshort)] at h
    contradiction
  obtain ⟨ct, tag, rfl, htag⟩ := exists_ciphertext_tag h8
  rw [aeadDecrypt_append rc key nonce ad ct e htag] at h
  dsimp only at h
  split at h
  next htags =>
    cases h
    rw [tagEqual_iff] at htags
    simp only [aeadEncrypt_fst, encryptGroups_decryptGroups, htags]
  next => contradiction

/-! ### The engine a function starts from does not matter -/

theorem enterPhase_same (p : Phase) {e e' : Engine} (h : SameSponge e e') : SameSponge (enterPhase p e) (enterPhase p e') :=
  ⟨h.s, h.k, h.kw⟩

theorem nextMsgBlock_same (rc : RoundCounts) {e e' : Engine} (h : SameSponge e e') :
    SameSponge (nextMsgBlock rc e) (nextMsgBlock rc e') :=
  runPermute_same rc.msg (addDomain_same domMsg h)

theorem msgKeystream_same (rc : RoundCounts) {e e' : Engine} (h : SameSponge e e') : msgKeystream rc e = msgKeystream rc e' :=
  squeezeWord_same (nextMsgBlock_same rc h)

theorem afterMsgGroup_same (rc : RoundCounts) (g : List Byte) {e e' : Engine} (h : SameSponge e e') :
    SameSponge (afterMsgGroup rc g e) (afterMsgGroup rc g e') :=
  addDomain_same _ (absorbWord_same _ (nextMsgBlock_same rc h))

/-- The start of both functions loads the key and starts from the zero state (R150, R154). -/
theorem aeadStart_same (rc : RoundCounts) (key nonce ad : List Byte) (e e' : Engine) :
    SameSponge (aeadStart rc key nonce ad e) (aeadStart rc key nonce ad e') :=
  enterPhase_same _ (absorb_same _ _ _ (enterPhase_same _ (setup_same _ _ _ rfl rfl)))

theorem encryptGroups_same (rc : RoundCounts) (pt : List Byte) {e e' : Engine} (h : SameSponge e e') :
    (encryptGroups rc pt e).1 = (encryptGroups rc pt e').1 ∧ SameSponge (encryptGroups rc pt e).2 (encryptGroups rc pt e').2 := by
  induction pt using groups_induction generalizing e e' with
  | nil => exact ⟨rfl, h⟩
  | group g rest h4 ih =>
    obtain ⟨hbytes, hengine⟩ := ih (afterMsgGroup_same rc g h)
    rw [encryptGroups_group rc rest e h4, encryptGroups_group rc rest e' h4, msgKeystream_same rc h, hbytes]
    exact ⟨rfl, hengine⟩
  | tail g h0 h4 =>
    rw [encryptGroups_tail rc e h0 h4, encryptGroups_tail rc e' h0 h4, msgKeystream_same rc h]
    exact ⟨rfl, afterMsgGroup_same rc g h⟩

theorem aeadTag_same (rc : RoundCounts) {e e' : Engine} (h : SameSponge e e') : aeadTag rc e = aeadTag rc e' :=
  generateTag_tagBytes_same rc (enterPhase_same .finalize h)

theorem aeadEncrypt_fst_same (rc : RoundCounts) (key nonce ad pt : List Byte) (e e' : Engine) :
    (aeadEncrypt rc key nonce ad pt e).1 = (aeadEncrypt rc key nonce ad pt e').1 := by
  obtain ⟨hbytes, hengine⟩ := encryptGroups_same rc pt (aeadStart_same rc key nonce ad e e')
  rw [aeadEncrypt_fst, aeadEncrypt_fst, hbytes, aeadTag_same rc hengine]

/-- Settles O22: on one engine the functions undo each other group by group, and the engine an encryption starts from does not
matter. -/
theorem aeadRoundTrip : Obligations.AeadRoundTrip := by
  unfold Obligations.AeadRoundTrip
  refine ⟨fun rc key nonce ad pt e e' => ?_, fun rc key nonce ad x pt e e' h => ?_⟩
  · rw [aeadEncrypt_fst_same rc key nonce ad pt e e']
    exact aeadDecrypt_aeadEncrypt rc key nonce ad pt e'
  · exact (aeadEncrypt_fst_same rc key nonce ad pt e' e).trans (aeadEncrypt_of_aeadDecrypt h)

/-- A decryption is determined by the encryption that it undoes. -/
theorem decryptGroups_same (rc : RoundCounts) (ct : List Byte) {e e' : Engine} (h : SameSponge e e') :
    (decryptGroups rc ct e).1 = (decryptGroups rc ct e').1 ∧ SameSponge (decryptGroups rc ct e).2 (decryptGroups rc ct e').2 := by
  obtain ⟨hbytes, hengine⟩ := encryptGroups_same rc (decryptGroups rc ct e).1 h
  rw [encryptGroups_decryptGroups] at hbytes hengine
  dsimp only at hbytes hengine
  have hback := decryptGroups_encryptGroups rc (decryptGroups rc ct e).1 e'
  rw [← hbytes] at hback
  rw [hback]
  exact ⟨rfl, hengine⟩

theorem aeadDecrypt_fst_same (rc : RoundCounts) (key nonce ad x : List Byte) (e e' : Engine) :
    (aeadDecrypt rc key nonce ad x e).1 = (aeadDecrypt rc key nonce ad x e').1 := by
  by_cases h8 : x.length < 8
  · rw [aeadDecrypt_short rc key nonce ad e h8, aeadDecrypt_short rc key nonce ad e' h8]
  · obtain ⟨ct, tag, rfl, htag⟩ := exists_ciphertext_tag (not_lt.1 h8)
    obtain ⟨hbytes, hengine⟩ := decryptGroups_same rc ct (aeadStart_same rc key nonce ad e e')
    simp only [aeadDecrypt_append rc key nonce ad ct _ htag, hbytes, aeadTag_same rc hengine]

/-! ### Lengths (R187), those of SIV beside them -/

/-- R187: a released plaintext is 8 bytes shorter than its input. -/
theorem length_of_aeadDecrypt {rc : RoundCounts} {key nonce ad x pt : List Byte} {e : Engine}
    (h : (aeadDecrypt rc key nonce ad x e).1 = .plaintext pt) : pt.length + 8 = x.length := by
  rw [← aeadEncrypt_of_aeadDecrypt h, length_aeadEncrypt]

theorem length_sivEncrypt (rc : RoundCounts) (key nonce ad pt : List Byte) (e : Engine) :
    (sivEncrypt rc key nonce ad pt e).1.length = pt.length + 8 := by
  simp only [sivEncrypt, List.length_append, length_sivStream, length_tagBytes]

/-- The three ways a SIV decryption ends (R214). -/
theorem sivDecrypt_cases (rc : RoundCounts) (key nonce ad x : List Byte) (e : Engine) :
    (x.length < 8 ∧ (sivDecrypt rc key nonce ad x e).1 = .lengthError) ∨
      (8 ≤ x.length ∧ ((sivDecrypt rc key nonce ad x e).1 = .authenticationFailure ∨
        ∃ pt, pt.length + 8 = x.length ∧ (sivDecrypt rc key nonce ad x e).1 = .plaintext pt)) := by
  unfold sivDecrypt
  split
  next h8 => exact .inl ⟨h8, rfl⟩
  next h8 =>
    refine .inr ⟨not_lt.1 h8, ?_⟩
    dsimp only
    split
    next => exact .inr ⟨_, by rw [length_sivStream, List.length_take]; omega, rfl⟩
    next => exact .inl rfl

theorem sivDecrypt_eq_lengthError_iff (rc : RoundCounts) (key nonce ad x : List Byte) (e : Engine) :
    (sivDecrypt rc key nonce ad x e).1 = .lengthError ↔ x.length < 8 := by
  obtain ⟨h8, hend⟩ | ⟨h8, hend | ⟨pt, -, hend⟩⟩ := sivDecrypt_cases rc key nonce ad x e
  · exact iff_of_true hend h8
  · exact iff_of_false (by simp [hend]) (not_lt.2 h8)
  · exact iff_of_false (by simp [hend]) (not_lt.2 h8)

theorem length_of_sivDecrypt {rc : RoundCounts} {key nonce ad x pt : List Byte} {e : Engine}
    (h : (sivDecrypt rc key nonce ad x e).1 = .plaintext pt) : pt.length + 8 = x.length := by
  obtain ⟨-, hend⟩ | ⟨-, hend | ⟨pt', hlen, hend⟩⟩ := sivDecrypt_cases rc key nonce ad x e
  · simp [hend] at h
  · simp [hend] at h
  · obtain rfl : pt' = pt := by simpa [hend] using h
    exact hlen

/-- Settles O24: an AEAD input that releases a plaintext is its encryption, 8 bytes longer; the keystream pass of SIV keeps the length. -/
theorem encryptAddsEightBytes : Obligations.EncryptAddsEightBytes := by
  unfold Obligations.EncryptAddsEightBytes
  intro rc key nonce ad x e
  exact ⟨length_aeadEncrypt rc key nonce ad x e, length_sivEncrypt rc key nonce ad x e, fun _ => length_of_aeadDecrypt,
    fun _ => length_of_sivDecrypt, aeadDecrypt_eq_lengthError_iff rc key nonce ad x e,
    sivDecrypt_eq_lengthError_iff rc key nonce ad x e⟩

end Sys2Proof.AeadMode

/-! ## The frames of the mode commands (R188, R189, R215, R216)

AEAD and SIV commands share one frame for encrypting and one for decrypting. What the frame does is said here for any function whose
output has the right length. -/

namespace Sys2Proof.ModeCommands

open Sys2Proof.Machine Sys2Proof.Claims Sys2Proof.Encoding

theorem four_mul_keyWords (ks : KeySize) : 4 * keyWords ks = keyBytes ks := by cases ks <;> rfl

/-- R68, R188, R189: the region check of a mode command. -/
theorem regionsValid_modeRegions_iff (ks : KeySize) (n : Nat) (s : State) :
    regionsValid s (modeRegions ks n s) = true ↔ ModeFits ks n s := by
  simp only [modeRegions, regionsValid_cons, regionsValid_nil, regionValid_iff, and_true, keyRegion, nonceRegion, adRegion, inRegion,
    outRegion, four_mul_keyWords]

theorem encryptRun_eq (f : EncryptFun) (ks : KeySize) (s : State) :
    encryptRun f ks s = f (roundsFor s.config.rc ks) (keyIn ks s) (nonceIn s) (adIn s) (dataIn s) (startEngine s) := by
  simp only [encryptRun, snapshot, keyRegion, nonceRegion, adRegion, inRegion, four_mul_keyWords, keyIn, nonceIn, adIn, dataIn]

theorem decryptRun_eq (f : DecryptFun) (ks : KeySize) (s : State) :
    decryptRun f ks s = f (roundsFor s.config.rc ks) (keyIn ks s) (nonceIn s) (adIn s) (dataIn s) (startEngine s) := by
  simp only [decryptRun, snapshot, keyRegion, nonceRegion, adRegion, inRegion, four_mul_keyWords, keyIn, nonceIn, adIn, dataIn]

/-- The input has `IN_LEN` bytes. -/
theorem length_dataIn (s : State) : (dataIn s).length = s.ops.inLen.toNat := memRead_length _ _ _

/-! ### Ending a command that writes -/

theorem outLenWord_toNat {n : Nat} (h : n < 2 ^ 32) : (outLenWord n).toNat = n := by
  rw [outLenWord, if_pos h, BitVec.toNat_ofNat, Nat.mod_eq_of_lt h]

theorem complete_outLenIs (n : Nat) (s : State) : OutLenIs n (complete n s) := outLenWord_toNat

theorem memRead_writeBack (s : State) (a : Nat) {n : Nat} {out : List Byte} (hlen : out.length = n) :
    memRead (writeBack s a out).mem a n = out := by
  rw [← hlen]
  exact memRead_memWrite s.mem a out

theorem memByte_memWrite_outside (m : Memory) {a x : Nat} (out : List Byte) (hx : x < a ∨ a + out.length ≤ x) :
    memByte (memWrite m a out) x = memByte m x := by
  rw [memByte_memWrite, if_neg (by omega)]

/-! ### The encrypting frame -/

theorem execEncrypting_of_not_fits (f : EncryptFun) {ks : KeySize} {s : State} (h : ¬ModeFits ks (s.ops.inLen.toNat + 8) s) :
    ∃ t, execEncrypting f ks s = .next t ∧ OnlyReports .addrErr s t := by
  rw [execEncrypting_eq, if_neg ((regionsValid_modeRegions_iff ks _ s).not.2 h)]
  exact ⟨_, rfl, raise_onlyReports .addrErr s⟩

theorem execEncrypting_of_fits {f : EncryptFun} {ks : KeySize} {s : State} (h : ModeFits ks (s.ops.inLen.toNat + 8) s)
    (hlen : (encryptRun f ks s).1.length = s.ops.inLen.toNat + 8) :
    ∃ t, execEncrypting f ks s = .next t ∧ EndsWith .none t ∧ OutLenIs (s.ops.inLen.toNat + 8) t ∧
      memRead t.mem s.ops.outAddr.toNat (s.ops.inLen.toNat + 8) = (encryptRun f ks s).1 ∧
      MemKeptOutside s.ops.outAddr.toNat (s.ops.inLen.toNat + 8) s t ∧ KeepsHash s t ∧ KeepsHost s t := by
  rw [execEncrypting_eq, if_pos ((regionsValid_modeRegions_iff ks _ s).2 h)]
  refine ⟨_, rfl, ⟨rfl, rfl, rfl, rfl, rfl⟩, complete_outLenIs _ _, memRead_writeBack _ _ hlen, fun x hx => ?_, ⟨rfl, rfl⟩,
    ⟨rfl, rfl, rfl, rfl, rfl⟩⟩
  exact memByte_memWrite_outside s.mem _ (hlen ▸ hx)

/-! ### The decrypting frame -/

theorem execDecrypting_of_short (f : DecryptFun) (ks : KeySize) {s : State} (h8 : s.ops.inLen.toNat < 8) :
    ∃ t, execDecrypting f ks s = .next t ∧ OnlyReports .lenErr s t := by
  rw [execDecrypting_eq, if_pos h8]
  exact ⟨_, rfl, raise_onlyReports .lenErr s⟩

theorem execDecrypting_of_not_fits (f : DecryptFun) {ks : KeySize} {s : State} (h8 : 8 ≤ s.ops.inLen.toNat)
    (h : ¬ModeFits ks (s.ops.inLen.toNat - 8) s) : ∃ t, execDecrypting f ks s = .next t ∧ OnlyReports .addrErr s t := by
  rw [execDecrypting_eq, if_neg (not_lt.2 h8), if_neg ((regionsValid_modeRegions_iff ks _ s).not.2 h)]
  exact ⟨_, rfl, raise_onlyReports .addrErr s⟩

/-- R189 and R305: whatever the result, `IN_LEN - 8` bytes are written and nothing else. -/
theorem decryptEnd_result {r : Decrypted × Engine} {s : State} (hend : r.1 ≠ .lengthError)
    (hlen : ∀ pt, r.1 = .plaintext pt → pt.length = s.ops.inLen.toNat - 8) :
    DecryptEnds r.1 s.ops.outAddr.toNat (s.ops.inLen.toNat - 8) (decryptEnd r s) ∧
      MemKeptOutside s.ops.outAddr.toNat (s.ops.inLen.toNat - 8) s (decryptEnd r s) ∧ KeepsHash s (decryptEnd r s) ∧
      KeepsHost s (decryptEnd r s) := by
  obtain ⟨pt, hr, ht⟩ | ⟨hr, ht⟩ | ⟨hr, -⟩ := decryptEnd_cases r s
  · have hpt := hlen pt hr
    rw [hr, ht]
    refine ⟨⟨⟨rfl, rfl, rfl, rfl, rfl⟩, complete_outLenIs _ _, memRead_writeBack _ _ hpt⟩, fun x hx => ?_, ⟨rfl, rfl⟩,
      ⟨rfl, rfl, rfl, rfl, rfl⟩⟩
    exact memByte_memWrite_outside s.mem pt (hpt ▸ hx)
  · have hzeros : (zeroBytes (s.ops.inLen.toNat - 8)).length = s.ops.inLen.toNat - 8 := List.length_replicate
    rw [hr, ht]
    refine ⟨⟨⟨rfl, rfl, rfl, rfl, rfl⟩, rfl, memRead_writeBack _ _ hzeros⟩, fun x hx => ?_, ⟨rfl, rfl⟩,
      ⟨rfl, rfl, rfl, rfl, rfl⟩⟩
    exact memByte_memWrite_outside s.mem _ (hzeros.symm ▸ hx)
  · exact absurd hr hend

theorem execDecrypting_of_fits {f : DecryptFun} {ks : KeySize} {s : State} (h8 : 8 ≤ s.ops.inLen.toNat)
    (h : ModeFits ks (s.ops.inLen.toNat - 8) s) (hend : (decryptRun f ks s).1 ≠ .lengthError)
    (hlen : ∀ pt, (decryptRun f ks s).1 = .plaintext pt → pt.length = s.ops.inLen.toNat - 8) :
    ∃ t, execDecrypting f ks s = .next t ∧
      DecryptEnds (decryptRun f ks s).1 s.ops.outAddr.toNat (s.ops.inLen.toNat - 8) t ∧
      MemKeptOutside s.ops.outAddr.toNat (s.ops.inLen.toNat - 8) s t ∧ KeepsHash s t ∧ KeepsHost s t := by
  rw [execDecrypting_eq, if_neg (not_lt.2 h8), if_pos ((regionsValid_modeRegions_iff ks _ s).2 h)]
  exact ⟨_, rfl, decryptEnd_result hend hlen⟩

end Sys2Proof.ModeCommands

/-! ## The AEAD commands (42_aead.md R188, R189) -/

namespace Sys2Proof.AeadMode

open Sys2Proof.Machine Sys2Proof.Claims Sys2Proof.ModeCommands

theorem decode_aeadEncOf (ks : KeySize) : decode (commandOf 0x10 (ksCode ks) 0) = .ok (aeadEncOf ks) := by cases ks <;> rfl

theorem decode_aeadDecOf (ks : KeySize) : decode (commandOf 0x11 (ksCode ks) 0) = .ok (aeadDecOf ks) := by cases ks <;> rfl

theorem exec_aeadEncOf (ks : KeySize) (s : State) : exec (aeadEncOf ks) s = execEncrypting aeadEncrypt ks s := by cases ks <;> rfl

theorem exec_aeadDecOf (ks : KeySize) (s : State) : exec (aeadDecOf ks) s = execDecrypting aeadDecrypt ks s := by cases ks <;> rfl

/-- Settles O35: the encrypting frame around `aead_encrypt`, which does not depend on the engine. -/
theorem aeadEncCommandResult : Obligations.AeadEncCommandResult := by
  unfold Obligations.AeadEncCommandResult
  refine fun ks => ⟨decode_aeadEncOf ks, fun s e => ?_⟩
  rw [exec_aeadEncOf, aeadEncrypt_fst_same _ _ _ _ _ e (startEngine s), ← encryptRun_eq aeadEncrypt]
  refine ⟨fun hfits => execEncrypting_of_fits hfits ?_, execEncrypting_of_not_fits aeadEncrypt⟩
  rw [encryptRun_eq, length_aeadEncrypt, length_dataIn]

/-- Settles O36: the decrypting frame around `aead_decrypt`, which does not depend on the engine. Past the length check there is no
`LengthError`. -/
theorem aeadDecCommandResult : Obligations.AeadDecCommandResult := by
  unfold Obligations.AeadDecCommandResult
  refine fun ks => ⟨decode_aeadDecOf ks, fun s e => ?_⟩
  rw [exec_aeadDecOf, aeadDecrypt_fst_same _ _ _ _ _ e (startEngine s), ← decryptRun_eq aeadDecrypt]
  refine ⟨fun h8 hfits => execDecrypting_of_fits h8 hfits ?_ fun pt hpt => ?_, execDecrypting_of_short aeadDecrypt ks,
    execDecrypting_of_not_fits aeadDecrypt⟩
  · rw [decryptRun_eq, Ne, aeadDecrypt_eq_lengthError_iff, length_dataIn]
    exact not_lt.2 h8
  · rw [decryptRun_eq] at hpt
    have hlen := length_of_aeadDecrypt hpt
    rw [length_dataIn] at hlen
    omega

end Sys2Proof.AeadMode

/-! ## SIV (43_siv.md)

Both passes start with `setup`, so of the engine they read `K` and `KW` only. What an encryption or a decryption answers is therefore
two functions of the loaded key, the tag of a plaintext and the keystream pass under a tag, and the second undoes itself. -/

namespace Sys2Proof.SivMode

open Sys2Proof.Machine Sys2Proof.Claims Sys2Proof.SpongeAbsorb Sys2Proof.GroupCipher Sys2Proof.AeadMode Sys2Proof.ModeCommands

/-! ### The keystream pass -/

theorem nextSivBlock_same (rc : RoundCounts) {e e' : Engine} (h : SameSponge e e') :
    SameSponge (nextSivBlock rc e) (nextSivBlock rc e') :=
  runPermute_same rc.sivKs (addDomain_same domSivKs h)

theorem streamGroups_fst_same (rc : RoundCounts) (data : List Byte) {e e' : Engine} (h : SameSponge e e') :
    (streamGroups rc data e).1 = (streamGroups rc data e').1 := by
  induction data using groups_induction generalizing e e' with
  | nil => rfl
  | group g rest h4 ih =>
    have hnext := nextSivBlock_same rc h
    rw [streamGroups_group rc rest e h4, streamGroups_group rc rest e' h4, squeezeWord_same hnext, ih hnext]
  | tail g h0 h4 =>
    rw [streamGroups_tail rc e h0 h4, streamGroups_tail rc e' h0 h4, squeezeWord_same (nextSivBlock_same rc h)]

/-- R212: nothing is absorbed, so both passes meet the same keystream. -/
theorem streamGroups_streamGroups (rc : RoundCounts) (data : List Byte) (e : Engine) :
    (streamGroups rc (streamGroups rc data e).1 e).1 = data := by
  induction data using groups_induction generalizing e with
  | nil => rfl
  | group g rest h4 ih =>
    rw [streamGroups_group rc rest e h4, streamGroups_group rc _ e ((length_cryptGroup _ h4.le).trans h4)]
    simp only [cryptGroup_cryptGroup _ h4.le, ih]
  | tail g h0 h4 =>
    rw [streamGroups_tail rc e h0 h4,
      streamGroups_tail rc e (cryptGroup_ne_nil _ h0 h4.le) ((length_cryptGroup _ h4.le).trans_lt h4)]
    exact cryptGroup_cryptGroup _ h4.le

theorem streamGroups_keepsKey (rc : RoundCounts) (data : List Byte) (e : Engine) : KeepsKey e (streamGroups rc data e).2 := by
  have hnext (e : Engine) : KeepsKey e (nextSivBlock rc e) := ⟨rfl, rfl, rfl, rfl⟩
  induction data using groups_induction generalizing e with
  | nil => exact ⟨rfl, rfl, rfl, rfl⟩
  | group g rest h4 ih => rw [streamGroups_group rc rest e h4]; exact (hnext e).trans (ih _)
  | tail g h0 h4 => rw [streamGroups_tail rc e h0 h4]; exact hnext e

/-! ### The two passes read the key only -/

/-- Two engines hold the same key. -/
structure SameKey (e e' : Engine) : Prop where
  k : e.k = e'.k
  kw : e.kw = e'.kw

theorem loadKey_sameKey (key : List Byte) (e e' : Engine) : SameKey (loadKey key e) (loadKey key e') := ⟨rfl, rfl⟩

theorem sivAuth_sameKey (rc : RoundCounts) (nonce ad pt : List Byte) (e : Engine) : SameKey (sivAuth rc nonce ad pt e) e := by
  have hkey := (setup_keepsKey rc nonce domSivAuth (enterPhase .authPass e)).trans
    ((absorb_keepsKey domAd rc.ad ad _).trans (absorb_keepsKey domMsg rc.sivAuth pt _))
  exact ⟨hkey.k, hkey.kw⟩

theorem sivStream_sivRekey_sameKey (rc : RoundCounts) (nonce tag data : List Byte) (e : Engine) :
    SameKey (sivStream rc data (sivRekey nonce tag e)).2 e := by
  have hkey := streamGroups_keepsKey rc data
    (enterPhase .streamPass (setup rc (nonce2Bytes (sivRekey nonce tag e)) domSivStream (sivRekey nonce tag e)))
  exact ⟨hkey.k, hkey.kw⟩

/-- The tag of a plaintext under the key that `e` holds (R210). -/
def sivTag (rc : RoundCounts) (nonce ad pt : List Byte) (e : Engine) : List Byte := tagBytes (sivAuth rc nonce ad pt e)

/-- Pass 2 under the nonce derived from a tag (R211, R212) and the key that `e` holds: it enciphers and deciphers. -/
def sivCrypt (rc : RoundCounts) (nonce tag data : List Byte) (e : Engine) : List Byte :=
  (sivStream rc data (sivRekey nonce tag e)).1

theorem length_sivTag (rc : RoundCounts) (nonce ad pt : List Byte) (e : Engine) : (sivTag rc nonce ad pt e).length = 8 :=
  length_tagBytes _

theorem sivTag_congr (rc : RoundCounts) (nonce ad pt : List Byte) {e e' : Engine} (h : SameKey e e') :
    sivTag rc nonce ad pt e = sivTag rc nonce ad pt e' :=
  generateTag_tagBytes_same rc
    (enterPhase_same .tag (absorb_same _ _ _ (absorb_same _ _ _ (setup_same rc nonce domSivAuth h.k h.kw))))

theorem sivCrypt_congr (rc : RoundCounts) (nonce tag data : List Byte) {e e' : Engine} (h : SameKey e e') :
    sivCrypt rc nonce tag data e = sivCrypt rc nonce tag data e' :=
  streamGroups_fst_same rc data (enterPhase_same .streamPass (setup_same rc _ domSivStream h.k h.kw))

/-- R212's involution, under one derived nonce. -/
theorem sivCrypt_sivCrypt (rc : RoundCounts) (nonce tag data : List Byte) (e : Engine) :
    sivCrypt rc nonce tag (sivCrypt rc nonce tag data e) e = data :=
  streamGroups_streamGroups rc data _

/-! ### The functions by their passes -/

theorem sivEncrypt_fst (rc : RoundCounts) (key nonce ad pt : List Byte) (e : Engine) :
    (sivEncrypt rc key nonce ad pt e).1 =
      let tag := sivTag rc nonce ad pt (loadKey key e)
      sivCrypt rc nonce tag pt (loadKey key e) ++ tag :=
  congrArg (· ++ _) (sivCrypt_congr rc nonce _ pt (sivAuth_sameKey rc nonce ad pt (loadKey key e)))

theorem sivDecrypt_append (rc : RoundCounts) (key nonce ad ct : List Byte) {tag : List Byte} (e : Engine) (h8 : tag.length = 8) :
    (sivDecrypt rc key nonce ad (ct ++ tag) e).1 =
      let pt := sivCrypt rc nonce tag ct (loadKey key e)
      if tagEqual (sivTag rc nonce ad pt (loadKey key e)) tag then .plaintext pt else .authenticationFailure := by
  have hlen : (ct ++ tag).length - 8 = ct.length := by simp [h8]
  have hkey := sivStream_sivRekey_sameKey rc nonce tag ct (loadKey key e)
  rw [sivDecrypt, if_neg (by simp [h8])]
  simp only [hlen, List.take_left, List.drop_left, ← sivTag_congr rc nonce ad _ hkey]
  rfl

theorem sivEncrypt_fst_same (rc : RoundCounts) (key nonce ad pt : List Byte) (e e' : Engine) :
    (sivEncrypt rc key nonce ad pt e).1 = (sivEncrypt rc key nonce ad pt e').1 := by
  have hkey := loadKey_sameKey key e e'
  simp only [sivEncrypt_fst, sivTag_congr rc nonce ad pt hkey, sivCrypt_congr rc nonce _ pt hkey]

theorem sivDecrypt_fst_same (rc : RoundCounts) (key nonce ad x : List Byte) (e e' : Engine) :
    (sivDecrypt rc key nonce ad x e).1 = (sivDecrypt rc key nonce ad x e').1 := by
  by_cases h8 : x.length < 8
  · rw [(sivDecrypt_eq_lengthError_iff rc key nonce ad x e).2 h8, (sivDecrypt_eq_lengthError_iff rc key nonce ad x e').2 h8]
  · obtain ⟨ct, tag, rfl, htag⟩ := exists_ciphertext_tag (not_lt.1 h8)
    have hkey := loadKey_sameKey key e e'
    simp only [sivDecrypt_append rc key nonce ad ct _ htag, sivCrypt_congr rc nonce tag ct hkey, sivTag_congr rc nonce ad _ hkey]

/-! ### Authentication on one engine -/

theorem sivDecrypt_sivEncrypt (rc : RoundCounts) (key nonce ad pt : List Byte) (e : Engine) :
    (sivDecrypt rc key nonce ad (sivEncrypt rc key nonce ad pt e).1 e).1 = .plaintext pt := by
  rw [sivEncrypt_fst, sivDecrypt_append rc key nonce ad _ e (length_sivTag rc nonce ad pt _)]
  simp only [sivCrypt_sivCrypt, if_pos ((tagEqual_iff _ _).2 rfl)]

theorem sivEncrypt_of_sivDecrypt {rc : RoundCounts} {key nonce ad x pt : List Byte} {e : Engine}
    (h : (sivDecrypt rc key nonce ad x e).1 = .plaintext pt) : (sivEncrypt rc key nonce ad pt e).1 = x := by
  obtain ⟨ct, tag, rfl, htag⟩ := exists_ciphertext_tag ((Nat.le_add_left 8 pt.length).trans_eq (length_of_sivDecrypt h))
  rw [sivDecrypt_append rc key nonce ad ct e htag] at h
  dsimp only at h
  split at h
  next htags =>
    cases h
    rw [tagEqual_iff] at htags
    simp only [sivEncrypt_fst, htags, sivCrypt_sivCrypt]
  next => contradiction

/-- Settles O23: the tag fixes the derived nonce, under it the keystream pass undoes itself, and the engine a function starts from does
not matter. -/
theorem sivRoundTrip : Obligations.SivRoundTrip := by
  unfold Obligations.SivRoundTrip
  refine ⟨fun rc key nonce ad pt e e' => ?_, fun rc key nonce ad x pt e e' h => ?_⟩
  · rw [sivEncrypt_fst_same rc key nonce ad pt e e']
    exact sivDecrypt_sivEncrypt rc key nonce ad pt e'
  · exact (sivEncrypt_fst_same rc key nonce ad pt e' e).trans (sivEncrypt_of_sivDecrypt h)

/-! ### The commands (R215, R216) -/

theorem decode_sivEncOf (ks : KeySize) : decode (commandOf 0x12 (ksCode ks) 0) = .ok (sivEncOf ks) := by cases ks <;> rfl

theorem decode_sivDecOf (ks : KeySize) : decode (commandOf 0x13 (ksCode ks) 0) = .ok (sivDecOf ks) := by cases ks <;> rfl

theorem exec_sivEncOf (ks : KeySize) (s : State) : exec (sivEncOf ks) s = execEncrypting sivEncrypt ks s := by cases ks <;> rfl

theorem exec_sivDecOf (ks : KeySize) (s : State) : exec (sivDecOf ks) s = execDecrypting sivDecrypt ks s := by cases ks <;> rfl

/-- Settles O37: the encrypting frame of R188 around `siv_encrypt`, which does not depend on the engine. -/
theorem sivEncCommandResult : Obligations.SivEncCommandResult := by
  unfold Obligations.SivEncCommandResult
  refine fun ks => ⟨decode_sivEncOf ks, fun s e => ?_⟩
  have hlen : (encryptRun sivEncrypt ks s).1.length = s.ops.inLen.toNat + 8 := by
    rw [encryptRun_eq, length_sivEncrypt, length_dataIn]
  rw [exec_sivEncOf, sivEncrypt_fst_same _ _ _ _ _ e (startEngine s), ← encryptRun_eq sivEncrypt]
  exact ⟨fun hfits => execEncrypting_of_fits hfits hlen, execEncrypting_of_not_fits sivEncrypt⟩

/-- Settles O38: the decrypting frame of R189 around `siv_decrypt`, which does not depend on the engine. Past the length check there is
no `LengthError`, and a released plaintext fills the output region. -/
theorem sivDecCommandResult : Obligations.SivDecCommandResult := by
  unfold Obligations.SivDecCommandResult
  refine fun ks => ⟨decode_sivDecOf ks, fun s e => ?_⟩
  have hend (h8 : 8 ≤ s.ops.inLen.toNat) : (decryptRun sivDecrypt ks s).1 ≠ .lengthError := by
    rw [decryptRun_eq, Ne, sivDecrypt_eq_lengthError_iff, length_dataIn]
    exact not_lt.2 h8
  have hlen (pt : List Byte) (hpt : (decryptRun sivDecrypt ks s).1 = .plaintext pt) : pt.length = s.ops.inLen.toNat - 8 := by
    rw [decryptRun_eq] at hpt
    rw [← length_dataIn, ← length_of_sivDecrypt hpt, Nat.add_sub_cancel]
  rw [exec_sivDecOf, sivDecrypt_fst_same _ _ _ _ _ e (startEngine s), ← decryptRun_eq sivDecrypt]
  exact ⟨fun h8 hfits => execDecrypting_of_fits h8 hfits (hend h8) hlen, execDecrypting_of_short sivDecrypt ks,
    execDecrypting_of_not_fits sivDecrypt⟩

end Sys2Proof.SivMode

/-! ## The hash (44_hash.md)

`Encrypt` is the serial permutation between two readings of the state as 16 bytes. `hash_update` runs byte by byte, the reference block by
block; the chaining value and the pending bytes after any input are those of the stream that the input prolongs. -/

namespace Sys2Proof.HashStream

open Sys2Proof.Machine Sys2Proof.Claims Sys2Proof.Permutation Sys2Proof.GroupCipher

/-! ### The state as 16 bytes (R26, R231) -/

/-- A byte string as a little-endian number (R61), as the reference writes it. -/
def leNumber (p : List Byte) : Nat := p.foldr (fun b n => b.toNat + 256 * n) 0

theorem testBit_leNumber (p : List Byte) (i : Nat) : (leNumber p).testBit i = (byteAt p (i / 8)).getLsbD (i % 8) := by
  induction p generalizing i with
  | nil => simp [leNumber, byteAt]
  | cons b p ih =>
    have hnumber : leNumber (b :: p) = 2 ^ 8 * leNumber p + b.toNat := Nat.add_comm _ _
    rw [hnumber, Nat.testBit_two_pow_mul_add _ b.isLt]
    by_cases hi : i < 8
    · rw [if_pos hi, Nat.div_eq_of_lt hi, Nat.mod_eq_of_lt hi]
      rfl
    · obtain ⟨j, rfl⟩ := Nat.exists_eq_add_of_le' (not_lt.1 hi)
      simp [hi, ih, byteAt]

theorem getLsbD_stateBits_quadOfBytes (p : List Byte) {i : Nat} (hi : i < 128) :
    (stateBits (quadOfBytes p)).getLsbD i = (byteAt p (i / 8)).getLsbD (i % 8) := by
  have hword (q : Nat) {m : Nat} (hm : m < 32) (hq : i = 32 * q + m) :
      (le32 p (4 * q)).getLsbD m = (byteAt p (i / 8)).getLsbD (i % 8) := by
    have hbyte : 4 * q + m / 8 = i / 8 := by omega
    have hbit : m % 8 = i % 8 := by omega
    rw [getLsbD_le32 p _ hm, hbyte, hbit]
  simp only [stateBits, quadOfBytes, BitVec.getLsbD_append]
  split_ifs with h0 h1 h2
  · exact hword 0 h0 (by omega)
  · exact hword 1 h1 (by omega)
  · exact hword 2 h2 (by omega)
  · exact hword 3 (by omega) (by omega)

/-- Loading 16 bytes is reading them as a 128-bit number. -/
theorem stateBits_quadOfBytes (p : List Byte) : stateBits (quadOfBytes p) = BitVec.ofNat 128 (leNumber p) := by
  apply BitVec.eq_of_getLsbD_eq
  intro i hi
  rw [getLsbD_stateBits_quadOfBytes p hi, BitVec.getLsbD_ofNat, testBit_leNumber]
  simp [hi]

/-- Storing the state is cutting the 128-bit register into bytes from bit 0 on. -/
theorem quadBytes_bitsState (b : BitVec 128) : quadBytes (bitsState b) = (List.range 16).map fun i => b.extractLsb' (8 * i) 8 := by
  have hbyte (q m : Nat) (hm : m + 8 ≤ 32) : (b.extractLsb' q 32).extractLsb' m 8 = b.extractLsb' (q + m) 8 := by
    apply BitVec.eq_of_getLsbD_eq
    intro i hi
    have hword : m + i < 32 := by omega
    simp [hi, hword, Nat.add_assoc]
  simp only [quadBytes, bytes32, bitsState, hbyte, Nat.reduceAdd, Nat.reduceLeDiff]
  rfl

theorem length_quadBytes (q : Quad) : (quadBytes q).length = 16 := rfl

theorem bytes32_le32 (b : List Byte) (o : Nat) : bytes32 (le32 b o) = (List.range 4).map fun i => byteAt b (o + i) := by
  have hbyte (j : Nat) (hj : j < 4) : (le32 b o).extractLsb' (8 * j) 8 = byteAt b (o + j) := by
    apply BitVec.eq_of_getLsbD_eq
    intro i hi
    have hdiv : (8 * j + i) / 8 = j := by omega
    have hmod : (8 * j + i) % 8 = i := by omega
    rw [BitVec.getLsbD_extractLsb', getLsbD_le32 b o (by omega), hdiv, hmod]
    simp [hi]
  calc bytes32 (le32 b o) = (List.range 4).map fun j => (le32 b o).extractLsb' (8 * j) 8 := rfl
    _ = (List.range 4).map fun j => byteAt b (o + j) := List.map_congr_left fun j hj => hbyte j (List.mem_range.1 hj)

theorem quadBytes_quadOfBytes {b : List Byte} (h16 : b.length = 16) : quadBytes (quadOfBytes b) = b := by
  have hbytes : quadBytes (quadOfBytes b) = (List.range 16).map (byteAt b) := by
    simp only [quadBytes, quadOfBytes, bytes32_le32]
    rfl
  rw [hbytes]
  apply List.ext_getElem
  · simp [h16]
  · intro i _ hi
    simp [byteAt, hi]

/-! ### The serial permutation under a key string (R123, R129) -/

theorem rawKeyBit_eq_refKeyBit {key : List Byte} (hlen : key.length = 16 ∨ key.length = 24 ∨ key.length = 32) (j : Nat) :
    rawKeyBit (keySchedule key) (key.length / 4) j = refKeyBit key j := by
  obtain ⟨-, -, hbytes⟩ := rawKeyBitsAreKeyBytes key j hlen
  exact hbytes

theorem serialSteps_eq_refPermute {key : List Byte} (hlen : key.length = 16 ∨ key.length = 24 ∨ key.length = 32) (rounds : Nat)
    (b : BitVec 128) :
    serialSteps (keySchedule key) (key.length / 4) (128 * rounds) 0 b = refPermute key rounds b := by
  simp only [serialSteps_eq_foldl, refPermute, Nat.zero_add, rawKeyBit_eq_refKeyBit hlen]

/-- `permute` under the schedule of a key string is the reference's permutation under that string. -/
theorem permute_keySchedule {key : List Byte} (hlen : key.length = 16 ∨ key.length = 24 ∨ key.length = 32) (rounds : Nat)
    (s : Quad) :
    permute s (keySchedule key) (key.length / 4) rounds = bitsState (refPermute key rounds (stateBits s)) := by
  rw [permute_eq_permuteSerial, permuteSerial, serialSteps_eq_refPermute hlen]

/-- R241. -/
theorem hashEncrypt_eq_refEncrypt (rounds : Nat) {kslot : List Byte} (h32 : kslot.length = 32) (p : List Byte) (e : Engine) :
    (hashEncrypt rounds kslot p e).1 = refEncrypt rounds kslot p := by
  rw [hashEncrypt_fst, permute_keySchedule (.inr (.inr h32)), quadBytes_bitsState, stateBits_quadOfBytes]
  rfl

/-! ### The compression function (R232) -/

theorem xorBytes_zeroBytes (b : List Byte) : xorBytes b (zeroBytes b.length) = b := by
  apply List.ext_getElem <;> simp [xorBytes, zeroBytes]

theorem xorBytes_e0 {b : List Byte} (h16 : b.length = 16) (c : Byte) : xorBytes b (e0 c) = xorFirst c b := by
  match b, h16 with
  | b :: bs, h16 =>
    have h15 : bs.length = 15 := Nat.succ.inj h16
    have hrest : xorBytes bs (zeroBytes 15) = bs := h15 ▸ xorBytes_zeroBytes bs
    exact congrArg ((b ^^^ c) :: ·) hrest

theorem length_xorFirst (c : Byte) (b : List Byte) : (xorFirst c b).length = b.length := by
  cases b <;> rfl

/-- A half of the new chaining value, read back from its registers. -/
theorem quadBytes_half (rounds : Nat) {kslot x : List Byte} (h32 : kslot.length = 32) (h16 : x.length = 16) (e : Engine) :
    quadBytes (quadOfBytes (xorBytes (hashEncrypt rounds kslot x e).1 x)) = xorBytes (refEncrypt rounds kslot x) x := by
  have hcipher : (hashEncrypt rounds kslot x e).1.length = 16 := length_quadBytes _
  have hhalf := (length_xorBytes (hcipher.trans h16.symm).le).trans hcipher
  rw [quadBytes_quadOfBytes hhalf, hashEncrypt_eq_refEncrypt rounds h32]

theorem halves_compress (rounds : Nat) {block : List Byte} (h16 : block.length = 16) (dom : Byte) (h : HashRegs) (e : Engine) :
    halves (compress rounds block dom h e).1 = refCompress rounds (halves h) block dom := by
  have hslot : (quadBytes h.hr ++ block).length = 32 := by rw [List.length_append, length_quadBytes, h16]
  have hx : (xorFirst dom (quadBytes h.hl)).length = 16 := length_xorFirst _ _
  have hy : (xorFirst 1 (xorFirst dom (quadBytes h.hl))).length = 16 := (length_xorFirst _ _).trans hx
  simp only [halves, compress, refCompress, xorBytes_e0 (length_quadBytes h.hl), xorBytes_e0 hx,
    quadBytes_half rounds hslot hx, quadBytes_half rounds hslot hy]
  rfl

/-! ### A stream by its whole blocks (R234) -/

theorem refBlocks_of_lt (rounds : Nat) (h : List Byte × List Byte) {stream : List Byte} (hlt : stream.length < 16) :
    refBlocks rounds h stream = h := by
  rw [refBlocks, Nat.div_eq_of_lt hlt]
  rfl

theorem refRest_of_lt {stream : List Byte} (hlt : stream.length < 16) : refRest stream = stream := by
  rw [refRest, Nat.div_eq_of_lt hlt]
  rfl

theorem length_block_append_div {block : List Byte} (h16 : block.length = 16) (stream : List Byte) :
    (block ++ stream).length / 16 = stream.length / 16 + 1 := by
  rw [List.length_append, h16]
  omega

theorem drop_block_append {block : List Byte} (h16 : block.length = 16) (stream : List Byte) (i : Nat) :
    (block ++ stream).drop (16 * (i + 1)) = stream.drop (16 * i) := by
  rw [Nat.mul_succ, Nat.add_comm, ← h16, List.drop_length_add_append]

theorem refBlocks_block_append (rounds : Nat) (h : List Byte × List Byte) {block : List Byte} (h16 : block.length = 16)
    (stream : List Byte) : refBlocks rounds h (block ++ stream) = refBlocks rounds (refCompress rounds h block 0) stream := by
  have hfirst : ((block ++ stream).drop (16 * 0)).take 16 = block := List.take_left' h16
  rw [refBlocks, length_block_append_div h16, List.range_succ_eq_map, List.foldl_cons, List.foldl_map, hfirst]
  simp only [Nat.succ_eq_add_one, drop_block_append h16, refBlocks]

theorem refRest_block_append {block : List Byte} (h16 : block.length = 16) (stream : List Byte) :
    refRest (block ++ stream) = refRest stream := by
  rw [refRest, length_block_append_div h16, drop_block_append h16, refRest]

/-! ### `hash_update` byte by byte (R234) -/

theorem take_toList_setIfInBounds (v : Vector Byte 16) (b : Byte) {n : Nat} (hn : n < 16) :
    (v.setIfInBounds n b).toList.take (n + 1) = v.toList.take n ++ [b] := by
  rw [Vector.toList_setIfInBounds, List.take_succ_eq_append_getElem (by simpa using hn), List.take_set_of_le le_rfl,
    List.getElem_set_self]

theorem length_pending {h : HashRegs} (hpos : h.hpos ≤ 15) : (pending h).length = h.hpos := by
  rw [pending, List.length_take, Vector.length_toList]
  omega

/-- Before the sixteenth byte a byte is only put behind the pending ones. -/
theorem hashByte_of_lt (rounds : Nat) {h : HashRegs} (e : Engine) (b : Byte) (hlt : h.hpos < 15) :
    halves (hashByte rounds (h, e) b).1 = halves h ∧ pending (hashByte rounds (h, e) b).1 = pending h ++ [b] ∧
      (hashByte rounds (h, e) b).1.hpos = h.hpos + 1 := by
  have hroom : h.hpos < 16 := by omega
  have hopen : ¬h.hpos + 1 = 16 := by omega
  rw [hashByte, if_neg hopen]
  exact ⟨rfl, take_toList_setIfInBounds h.hbuf b hroom, rfl⟩

/-- The sixteenth byte completes a block, which is compressed; nothing is pending then. -/
theorem hashByte_of_eq (rounds : Nat) {h : HashRegs} (e : Engine) (b : Byte) (hlast : h.hpos = 15) :
    halves (hashByte rounds (h, e) b).1 = refCompress rounds (halves h) (pending h ++ [b]) 0 ∧
      pending (hashByte rounds (h, e) b).1 = [] ∧ (hashByte rounds (h, e) b).1.hpos = 0 := by
  have hblock : (h.hbuf.setIfInBounds h.hpos b).toList = pending h ++ [b] := by
    rw [pending, ← take_toList_setIfInBounds h.hbuf b (by omega), List.take_of_length_le (by simp [hlast])]
  rw [hashByte, if_pos (by simp [hlast]), ← hblock]
  exact ⟨halves_compress rounds Vector.length_toList 0 _ e, rfl, rfl⟩

/-- The hash registers of a stream: from the chaining value `start` its whole blocks are compressed, the rest is pending (R27, R234). -/
structure HoldsStream (rounds : Nat) (start : List Byte × List Byte) (stream : List Byte) (h : HashRegs) : Prop where
  chain : halves h = refBlocks rounds start stream
  rest : pending h = refRest stream
  pos : h.hpos ≤ 15

theorem holdsStream_pending (rounds : Nat) {h : HashRegs} (hpos : h.hpos ≤ 15) : HoldsStream rounds (halves h) (pending h) h := by
  have hlt : (pending h).length < 16 := by rw [length_pending hpos]; omega
  exact ⟨(refBlocks_of_lt rounds _ hlt).symm, (refRest_of_lt hlt).symm, hpos⟩

/-- A compressed block at the front of a stream is forgotten but for the chaining value. -/
theorem HoldsStream.block_append {rounds : Nat} {start : List Byte × List Byte} {block stream : List Byte} {h : HashRegs}
    (h16 : block.length = 16) (hh : HoldsStream rounds (refCompress rounds start block 0) stream h) :
    HoldsStream rounds start (block ++ stream) h :=
  ⟨by rw [hh.chain, refBlocks_block_append rounds start h16], by rw [hh.rest, refRest_block_append h16], hh.pos⟩

/-- R234: after `hash_update(data)` the registers hold the pending bytes followed by `data`. -/
theorem hashUpdate_holdsStream (rounds : Nat) (data : List Byte) {h : HashRegs} (e : Engine) (hpos : h.hpos ≤ 15) :
    HoldsStream rounds (halves h) (pending h ++ data) (hashUpdate rounds data (h, e)).1 := by
  induction data generalizing h e with
  | nil => rw [List.append_nil]; exact holdsStream_pending rounds hpos
  | cons b data ih =>
    have hstream : pending h ++ b :: data = pending h ++ [b] ++ data := by simp
    rw [hstream]
    obtain hlt | hlast := Nat.lt_or_eq_of_le hpos
    · obtain ⟨hhalves, hpending, hpos'⟩ := hashByte_of_lt rounds e b hlt
      rw [← hhalves, ← hpending]
      exact ih (hashByte rounds (h, e) b).2 (by omega)
    · obtain ⟨hhalves, hpending, hpos'⟩ := hashByte_of_eq rounds e b hlast
      have hblock : (pending h ++ [b]).length = 16 := by rw [List.length_append, length_pending hpos, hlast]; rfl
      have hrest := ih (h := (hashByte rounds (h, e) b).1) (hashByte rounds (h, e) b).2 (by omega)
      rw [hhalves, hpending, List.nil_append] at hrest
      exact hrest.block_append hblock

/-! ### `hash_finalize` and `hash` (R235, R236) -/

theorem finalBlock_eq_refPad {h : HashRegs} (hpos : h.hpos ≤ 15) : finalBlock h = refPad (pending h) := by
  rw [refPad, length_pending hpos]
  rfl

theorem length_finalBlock {h : HashRegs} (hpos : h.hpos ≤ 15) : (finalBlock h).length = 16 := by
  have hlen := length_pending hpos
  rw [finalBlock_eq_refPad hpos, refPad, List.length_append, List.length_cons, List.length_replicate]
  omega

/-- R235, on the chaining value `start` and the pending bytes `rest`: the digest. -/
def refDigest (rounds : Nat) (start : List Byte × List Byte) (rest : List Byte) : List Byte :=
  (refCompress rounds start (refPad rest) 2).1 ++ (refCompress rounds start (refPad rest) 2).2

theorem hashFinalize_fst (rounds : Nat) {h : HashRegs} (e : Engine) (hpos : h.hpos ≤ 15) :
    (hashFinalize rounds (h, e)).1 = refDigest rounds (halves h) (pending h) := by
  rw [refDigest, ← finalBlock_eq_refPad hpos, ← halves_compress rounds (length_finalBlock hpos) 2 h e]
  rfl

theorem refHash_eq_refDigest (rounds : Nat) (msg : List Byte) :
    refHash rounds msg = refDigest rounds (refBlocks rounds (halves HashRegs.zero) msg) (refRest msg) := rfl

theorem hashMessage_eq_refHash (rounds : Nat) (msg : List Byte) (e : Engine) : (hashMessage rounds msg e).1 = refHash rounds msg := by
  have hend : HoldsStream rounds (halves HashRegs.zero) msg (hashUpdate rounds msg (HashRegs.zero, e)).1 :=
    hashUpdate_holdsStream rounds msg e (Nat.zero_le 15)
  rw [hashMessage, hashFinalize_fst rounds _ hend.pos, hend.chain, hend.rest, refHash_eq_refDigest]

/-- Settles O21: `Encrypt` by the serial form of `permute` between the two readings of the state as bytes, `hash` by the stream its
registers hold. -/
theorem hashIsBitSerialSpec : Obligations.HashIsBitSerialSpec := by
  unfold Obligations.HashIsBitSerialSpec
  exact ⟨fun rounds kslot p e h32 _ => hashEncrypt_eq_refEncrypt rounds h32 p e, hashMessage_eq_refHash⟩

end Sys2Proof.HashStream

/-! ## The hash commands (44_hash.md section 3) -/

namespace Sys2Proof.HashCommands

open Sys2Proof.Machine Sys2Proof.Claims

theorem exec_hashInit (s : State) :
    exec .hashInit s = .next (complete 0 { s with hash := HashRegs.zero, hashActive := true }) := rfl

/-- R254: a command that completes ends with no error. -/
theorem complete_endsWith (n : Nat) (s : State) : EndsWith .none (complete n s) := ⟨rfl, rfl, rfl, rfl, rfl⟩

/-- Settles O39: `HASH_INIT` completes whatever the state holds; of the stream that was open nothing is read. -/
theorem hashInitResult : Obligations.HashInitResult := by
  unfold Obligations.HashInitResult
  refine ⟨rfl, fun s => ⟨_, exec_hashInit s, complete_endsWith 0 _, ?_⟩⟩
  exact ⟨rfl, complete_hash 0 _, complete_hashActive 0 _, complete_mem 0 _, ⟨rfl, rfl, rfl, rfl, rfl⟩⟩

end Sys2Proof.HashCommands

/-! ## The system commands (45_system_commands.md R250 to R252) -/

namespace Sys2Proof.SystemCommands

open Sys2Proof.Machine Sys2Proof.Claims Sys2Proof.Encoding Sys2Proof.Permutation Sys2Proof.ModeCommands Sys2Proof.HashStream
  Sys2Proof.HashCommands

/-! ### The words of the system commands (R91 to R95) -/

/-- The four fields are laid out side by side. -/
theorem fields_commandOf {op ks rounds : Nat} (hop : op < 256) (hks : ks < 4) (hrounds : rounds < 65536) :
    opField (commandOf op ks rounds) = op ∧ ksField (commandOf op ks rounds) = ks ∧ rsvField (commandOf op ks rounds) = 0 ∧
      roundsField (commandOf op ks rounds) = rounds := by
  have hword : (commandOf op ks rounds).toNat = op + ks * 256 + rounds * 65536 :=
    Nat.mod_eq_of_lt (by omega : op + ks * 256 + rounds * 65536 < 2 ^ 32)
  rw [opField_eq, ksField_eq, rsvField_eq, roundsField_eq, hword]
  omega

theorem decodePerm_eq {c : Word} {ks : KeySize} (hks : ksField c = ksCode ks) : decodePerm c = .ok (permOf ks (roundsField c)) := by
  cases ks <;> simp only [decodePerm, decodeKeySize, hks, ksCode, permOf]

theorem decode_permOf (ks : KeySize) {rounds : Nat} (hrounds : rounds < 65536) :
    decode (commandOf 0x02 (ksCode ks) rounds) = .ok (permOf ks rounds) := by
  have hcode : ksCode ks < 4 := by cases ks <;> decide
  obtain ⟨hop, hks, hrsv, hfield⟩ := fields_commandOf (op := 0x02) (by decide) hcode hrounds
  calc decode (commandOf 0x02 (ksCode ks) rounds)
      = decodePerm (commandOf 0x02 (ksCode ks) rounds) := by simp only [decode, hrsv, hop, ne_eq, not_true_eq_false, if_false]
    _ = .ok (permOf ks rounds) := by rw [decodePerm_eq hks, hfield]

theorem decodeKeyless_ok_iff (c : Word) (i j : Instr) :
    decodeKeyless c i = .ok j ↔ ksField c = 0 ∧ roundsField c = 0 ∧ i = j := by
  unfold decodeKeyless
  by_cases hks : ksField c = 0 <;> by_cases hrounds : roundsField c = 0 <;> simp [hks, hrounds]

theorem decodeMode_ok {c : Word} {i128 i192 i256 i : Instr} (h : decodeMode c i128 i192 i256 = .ok i) :
    i = i128 ∨ i = i192 ∨ i = i256 := by
  unfold decodeMode at h
  split at h
  · cases h
  next ks _ =>
    split at h
    · cases h
    · cases ks <;> cases h <;> simp

theorem decodePerm_ok {c : Word} {i : Instr} (h : decodePerm c = .ok i) : ∃ ks, i = permOf ks (roundsField c) := by
  unfold decodePerm at h
  split at h
  · cases h
  · exact ⟨.k128, by cases h; rfl⟩
  · exact ⟨.k192, by cases h; rfl⟩
  · exact ⟨.k256, by cases h; rfl⟩

/-- Only the operation 1 has an arm that answers `CLEAN`; the keyless arm then fixes the other fields. -/
theorem decode_eq_clean_iff (c : Word) : decode c = .ok .clean ↔ c = 0x00000001 := by
  refine ⟨fun h => (eq_iff_fields c 0x00000001).2 ?_, fun h => by subst h; rfl⟩
  unfold decode at h
  split at h
  · cases h
  next hrsv =>
    split at h
    case h_2 hop =>
      obtain ⟨hks, hrounds, -⟩ := (decodeKeyless_ok_iff c _ _).1 h
      exact ⟨hop, hks, not_not.1 hrsv, hrounds⟩
    case h_1 | h_8 | h_9 | h_10 | h_11 =>
      obtain ⟨-, -, hother⟩ := (decodeKeyless_ok_iff c _ _).1 h
      cases hother
    case h_3 =>
      obtain ⟨ks, hother⟩ := decodePerm_ok h
      cases ks <;> cases hother
    case h_4 | h_5 | h_6 | h_7 => obtain hother | hother | hother := decodeMode_ok h <;> cases hother
    case h_12 => cases h

/-! ### `NOP` and `CLEAN` (R250, R251) -/

theorem exec_nop (s : State) : exec .nop s = .next (complete 0 s) := rfl

theorem exec_clean (s : State) : exec .clean s = .next (complete 0 { s with hash := HashRegs.zero, hashActive := false }) := rfl

/-- R31: after a command that completes only `DONE` and `HASH_ACTIVE` can be set. -/
theorem statusWord_complete (n : Nat) (s : State) : statusWord (complete n s) = if s.hashActive then 6 else 2 := by
  rw [statusWord, complete_busy, complete_done, complete_hashActive, complete_err]
  cases s.hashActive <;> rfl

/-- Settles O32: `NOP` is the epilogue and nothing else. -/
theorem nopResult : Obligations.NopResult := by
  unfold Obligations.NopResult
  refine ⟨rfl, fun s => ⟨_, exec_nop s, complete_endsWith 0 s, rfl, complete_mem 0 s, ⟨rfl, rfl⟩, ⟨rfl, rfl, rfl, rfl, rfl⟩, ?_⟩⟩
  exact statusWord_complete 0 s

/-- Settles O33: `CLEAN` clears the hash registers and the epilogue the rest; both do nothing to a state they have cleared. -/
theorem cleanResult : Obligations.CleanResult := by
  unfold Obligations.CleanResult
  refine ⟨decode_eq_clean_iff, fun s => ⟨_, exec_clean s, complete_endsWith 0 _, rfl, complete_hash 0 _, complete_hashActive 0 _,
    complete_mem 0 _, ⟨rfl, rfl, rfl, rfl, rfl⟩, ?_, statusWord_complete 0 _⟩⟩
  exact exec_clean _

/-! ### `PERM` (R252) -/

theorem exec_permOf (ks : KeySize) (rounds : Nat) (s : State) : exec (permOf ks rounds) s = execPerm ks rounds s := by
  cases ks <;> rfl

/-- R68, R252: the region check of `PERM`. -/
theorem regionsValid_permRegions_iff (ks : KeySize) (s : State) : regionsValid s (permRegions ks s) = true ↔ PermFits ks s := by
  simp only [permRegions, regionsValid_cons, regionsValid_nil, regionValid_iff, and_true, keyRegion, permInRegion, outRegion,
    four_mul_keyWords]

/-- What `PERM` computes from the bytes it reads, in the serial form of R129. -/
theorem permRun_s (ks : KeySize) (rounds : Nat) (s : State) :
    (permRun ks rounds s).s = permuteSerial (quadOfBytes (memRead s.mem s.ops.inAddr.toNat 16)) (keySchedule (keyIn ks s))
      (keyBytes ks / 4) rounds := by
  simp only [permRun, permEngine, runPermute_s, loadState_s, loadState_k, loadState_kw, loadKey_k, loadKey_kw, snapshot, keyRegion,
    permInRegion, four_mul_keyWords, memRead_length, permute_eq_permuteSerial, keyIn]

/-- Settles O34: the region check chooses between `ADDR_ERR` and the write-back of the 16 state bytes. -/
theorem permCommandResult : Obligations.PermCommandResult := by
  unfold Obligations.PermCommandResult
  refine fun ks rounds => ⟨decode_permOf ks, fun s => ?_⟩
  rw [exec_permOf, execPerm_eq, ← permRun_s]
  refine ⟨fun hfits => ?_, fun hfits => ?_⟩
  · rw [if_pos ((regionsValid_permRegions_iff ks s).2 hfits)]
    have hlen := length_quadBytes (permRun ks rounds s).s
    refine ⟨_, rfl, complete_endsWith 16 _, rfl, memRead_writeBack _ _ hlen, fun x hx => ?_, ⟨rfl, rfl⟩,
      ⟨rfl, rfl, rfl, rfl, rfl⟩⟩
    exact memByte_memWrite_outside s.mem _ (hlen.symm ▸ hx)
  · rw [if_neg ((regionsValid_permRegions_iff ks s).not.2 hfits)]
    exact ⟨_, rfl, raise_onlyReports .addrErr s⟩

end Sys2Proof.SystemCommands

/-! ## The checks of the prologue (45_system_commands.md R253, 60_exceptions.md R302 to R307)

A command raises the error of its first failing check. The commands fall into eleven families, the keyed ones indexed by the key
size, and a command's checks depend on its family only. -/

namespace Sys2Proof.Exceptions

open Sys2Proof.Machine Sys2Proof.Claims Sys2Proof.Encoding Sys2Proof.ModeCommands Sys2Proof.AeadMode Sys2Proof.SivMode
  Sys2Proof.HashCommands Sys2Proof.SystemCommands

/-! ### The families of commands -/

theorem instr_families {P : Instr → Prop} (nop : P .nop) (clean : P .clean) (perm : ∀ ks rounds, P (permOf ks rounds))
    (aeadEnc : ∀ ks, P (aeadEncOf ks)) (aeadDec : ∀ ks, P (aeadDecOf ks)) (sivEnc : ∀ ks, P (sivEncOf ks))
    (sivDec : ∀ ks, P (sivDecOf ks)) (hashInit : P .hashInit) (hashUpdate : P .hashUpdate) (hashFinal : P .hashFinal)
    (hash : P .hash) (i : Instr) : P i := by
  cases i with
  | nop => exact nop
  | clean => exact clean
  | perm128 rounds => exact perm .k128 rounds
  | perm192 rounds => exact perm .k192 rounds
  | perm256 rounds => exact perm .k256 rounds
  | aeadEnc128 => exact aeadEnc .k128
  | aeadEnc192 => exact aeadEnc .k192
  | aeadEnc256 => exact aeadEnc .k256
  | aeadDec128 => exact aeadDec .k128
  | aeadDec192 => exact aeadDec .k192
  | aeadDec256 => exact aeadDec .k256
  | sivEnc128 => exact sivEnc .k128
  | sivEnc192 => exact sivEnc .k192
  | sivEnc256 => exact sivEnc .k256
  | sivDec128 => exact sivDec .k128
  | sivDec192 => exact sivDec .k192
  | sivDec256 => exact sivDec .k256
  | hashInit => exact hashInit
  | hashUpdate => exact hashUpdate
  | hashFinal => exact hashFinal
  | hash => exact hash

theorem decrypts_aeadDecOf (ks : KeySize) : decrypts (aeadDecOf ks) = true := by cases ks <;> rfl

theorem decrypts_sivDecOf (ks : KeySize) : decrypts (sivDecOf ks) = true := by cases ks <;> rfl

/-- Only the decrypting commands have a length check (R253 step 4). -/
theorem exists_decOf_of_decrypts {i : Instr} (h : decrypts i = true) : ∃ ks, i = aeadDecOf ks ∨ i = sivDecOf ks := by
  cases i using instr_families with
  | aeadDec ks => exact ⟨ks, .inl rfl⟩
  | sivDec ks => exact ⟨ks, .inr rfl⟩
  | perm ks | aeadEnc ks | sivEnc ks => cases ks <;> cases h
  | nop | clean | hashInit | hashUpdate | hashFinal | hash => cases h

/-- Only two commands have a sequence check (R253 step 3). -/
theorem eq_of_needsStream {i : Instr} (h : needsStream i = true) : i = .hashUpdate ∨ i = .hashFinal := by
  simpa [needsStream] using h

/-- No command has both a sequence check and a length check. -/
theorem decrypts_of_needsStream {i : Instr} (h : needsStream i = true) : decrypts i = false := by
  obtain rfl | rfl := eq_of_needsStream h <;> rfl

/-! ### The regions of a family (R96, R304) -/

theorem regionsFit_of_no_regions {i : Instr} {s : State} (hkey : keySizeOf i = none) (hmode : isMode i = false)
    (hin : inputBytes i s = none) (hout : outputBytes i s = 0) : RegionsFit i s := by
  simp [RegionsFit, Fits, hkey, hmode, hin, hout]

theorem regionsFit_permOf_iff (ks : KeySize) (rounds : Nat) (s : State) : RegionsFit (permOf ks rounds) s ↔ PermFits ks s := by
  cases ks <;> simp [RegionsFit, permOf, keySizeOf, isMode, inputBytes, outputBytes]

theorem inputBytes_of_isMode {i : Instr} (hmode : isMode i = true) (s : State) : inputBytes i s = some s.ops.inLen.toNat := by
  unfold inputBytes
  split
  case h_1 | h_2 | h_3 | h_4 | h_5 => cases hmode
  case h_6 => exact if_pos hmode

theorem regionsFit_mode_iff {i : Instr} {ks : KeySize} (hks : keySizeOf i = some ks) (hmode : isMode i = true) (s : State) :
    RegionsFit i s ↔ ModeFits ks (outputBytes i s) s := by
  simp [RegionsFit, hks, hmode, inputBytes_of_isMode hmode, and_assoc]

theorem regionsFit_aeadEncOf_iff (ks : KeySize) (s : State) :
    RegionsFit (aeadEncOf ks) s ↔ ModeFits ks (s.ops.inLen.toNat + 8) s := by
  cases ks <;> exact regionsFit_mode_iff rfl rfl s

theorem regionsFit_sivEncOf_iff (ks : KeySize) (s : State) :
    RegionsFit (sivEncOf ks) s ↔ ModeFits ks (s.ops.inLen.toNat + 8) s := by
  cases ks <;> exact regionsFit_mode_iff rfl rfl s

theorem regionsFit_aeadDecOf_iff (ks : KeySize) (s : State) :
    RegionsFit (aeadDecOf ks) s ↔ ModeFits ks (s.ops.inLen.toNat - 8) s := by
  cases ks <;> exact regionsFit_mode_iff rfl rfl s

theorem regionsFit_sivDecOf_iff (ks : KeySize) (s : State) :
    RegionsFit (sivDecOf ks) s ↔ ModeFits ks (s.ops.inLen.toNat - 8) s := by
  cases ks <;> exact regionsFit_mode_iff rfl rfl s

theorem regionsValid_hashUpdate_iff (s : State) : regionsValid s [inRegion s] = true ↔ RegionsFit .hashUpdate s := by
  simp [RegionsFit, Fits, keySizeOf, isMode, inputBytes, outputBytes, regionsValid_cons, regionsValid_nil, regionValid_iff, inRegion]

theorem regionsValid_hashFinal_iff (s : State) : regionsValid s [outRegion 32 s] = true ↔ RegionsFit .hashFinal s := by
  simp [RegionsFit, keySizeOf, isMode, inputBytes, outputBytes, regionsValid_cons, regionsValid_nil, regionValid_iff, outRegion]

theorem regionsValid_hash_iff (s : State) : regionsValid s [inRegion s, outRegion 32 s] = true ↔ RegionsFit .hash s := by
  simp [RegionsFit, keySizeOf, isMode, inputBytes, outputBytes, regionsValid_cons, regionsValid_nil, regionValid_iff, inRegion,
    outRegion]

/-! ### The sequence check and the length check (R302, R303) -/

/-- The sequence check of a command fails. -/
abbrev LacksStream (i : Instr) (s : State) : Prop := needsStream i = true ∧ s.hashActive = false

/-- The length check of a command fails. -/
abbrev InputTooShort (i : Instr) (s : State) : Prop := decrypts i = true ∧ s.ops.inLen.toNat < 8

theorem not_inputTooShort_of_lacksStream {i : Instr} {s : State} (h : LacksStream i s) : ¬InputTooShort i s := by
  simp [decrypts_of_needsStream h.1]

theorem exec_of_lacksStream {i : Instr} {s : State} (h : LacksStream i s) : exec i s = .next (raise .seqErr s) := by
  obtain ⟨hneeds, hclosed⟩ := h
  obtain rfl | rfl := eq_of_needsStream hneeds
  · exact (execHashUpdate_eq s).trans (by rw [if_pos hclosed])
  · exact (execHashFinal_eq s).trans (by rw [if_pos hclosed])

theorem exec_of_inputTooShort {i : Instr} {s : State} (h : InputTooShort i s) : exec i s = .next (raise .lenErr s) := by
  obtain ⟨hdec, hshort⟩ := h
  obtain ⟨ks, rfl | rfl⟩ := exists_decOf_of_decrypts hdec
  · rw [exec_aeadDecOf, execDecrypting_eq, if_pos hshort]
  · rw [exec_sivDecOf, execDecrypting_eq, if_pos hshort]

/-! ### The region check (R304, R305) -/

/-- What a command answers whose sequence and length checks pass: its regions decide between `ADDR_ERR` and the end of its body, where
only a decrypting command can still fail. -/
def RegionsDecide (i : Instr) (s : State) : Prop :=
  ∃ t, exec i s = .next t ∧ (¬RegionsFit i s → OnlyReports .addrErr s t) ∧
    (RegionsFit i s → t.err = .none ∨ decrypts i = true ∧ t.err = .authFail)

theorem regionsDecide_of_exec_eq {i : Instr} {s u : State} {valid : Bool}
    (hexec : exec i s = .next (if valid = true then u else raise .addrErr s)) (hvalid : valid = true ↔ RegionsFit i s)
    (hend : u.err = .none ∨ decrypts i = true ∧ u.err = .authFail) : RegionsDecide i s := by
  by_cases hfits : RegionsFit i s
  · rw [if_pos (hvalid.2 hfits)] at hexec
    exact ⟨u, hexec, absurd hfits, fun _ => hend⟩
  · rw [if_neg (hvalid.not.2 hfits)] at hexec
    exact ⟨_, hexec, fun _ => raise_onlyReports .addrErr s, fun h => absurd h hfits⟩

theorem regionsDecide_of_complete {i : Instr} {s u : State} {n : Nat} (hexec : exec i s = .next (complete n u))
    (hfits : RegionsFit i s) : RegionsDecide i s :=
  ⟨_, hexec, absurd hfits, fun _ => .inl (complete_err n u)⟩

theorem decryptEnd_err {r : Decrypted × Engine} (hend : r.1 ≠ .lengthError) (s : State) :
    (decryptEnd r s).err = .none ∨ (decryptEnd r s).err = .authFail := by
  obtain ⟨pt, -, ht⟩ | ⟨-, ht⟩ | ⟨hr, -⟩ := decryptEnd_cases r s
  · exact .inl (ht ▸ complete_err _ _)
  · exact .inr (ht ▸ raise_err _ _)
  · exact absurd hr hend

/-- The encrypting frame, for either mode. -/
theorem regionsDecide_encrypting {i : Instr} {f : EncryptFun} {ks : KeySize} {s : State} (hexec : exec i s = execEncrypting f ks s)
    (hfits : RegionsFit i s ↔ ModeFits ks (s.ops.inLen.toNat + 8) s) : RegionsDecide i s :=
  regionsDecide_of_exec_eq (hexec.trans (execEncrypting_eq f ks s)) ((regionsValid_modeRegions_iff ks _ s).trans hfits.symm)
    (.inl (complete_err _ _))

/-- The decrypting frame, for either mode: past the length check its function has no `LengthError`. -/
theorem regionsDecide_decrypting {i : Instr} {f : DecryptFun} {ks : KeySize} {s : State} (hexec : exec i s = execDecrypting f ks s)
    (hdec : decrypts i = true) (hfits : RegionsFit i s ↔ ModeFits ks (s.ops.inLen.toNat - 8) s)
    (hlength : ∀ rc key nonce ad x e, (f rc key nonce ad x e).1 = .lengthError ↔ x.length < 8) (hshort : ¬InputTooShort i s) :
    RegionsDecide i s := by
  have hlong : ¬s.ops.inLen.toNat < 8 := fun h8 => hshort ⟨hdec, h8⟩
  have hend : (decryptRun f ks s).1 ≠ .lengthError := by
    rwa [decryptRun_eq, Ne, hlength, length_dataIn]
  rw [execDecrypting_eq, if_neg hlong] at hexec
  exact regionsDecide_of_exec_eq hexec ((regionsValid_modeRegions_iff ks _ s).trans hfits.symm)
    ((decryptEnd_err hend s).imp_right fun h => ⟨hdec, h⟩)

theorem regionsDecide_of_checks {i : Instr} {s : State} (hstream : ¬LacksStream i s) (hshort : ¬InputTooShort i s) :
    RegionsDecide i s := by
  cases i using instr_families with
  | nop => exact regionsDecide_of_complete (exec_nop s) (regionsFit_of_no_regions rfl rfl rfl rfl)
  | clean => exact regionsDecide_of_complete (exec_clean s) (regionsFit_of_no_regions rfl rfl rfl rfl)
  | hashInit => exact regionsDecide_of_complete (exec_hashInit s) (regionsFit_of_no_regions rfl rfl rfl rfl)
  | perm ks rounds =>
    exact regionsDecide_of_exec_eq ((exec_permOf ks rounds s).trans (execPerm_eq ks rounds s))
      ((regionsValid_permRegions_iff ks s).trans (regionsFit_permOf_iff ks rounds s).symm) (.inl (complete_err _ _))
  | aeadEnc ks => exact regionsDecide_encrypting (exec_aeadEncOf ks s) (regionsFit_aeadEncOf_iff ks s)
  | sivEnc ks => exact regionsDecide_encrypting (exec_sivEncOf ks s) (regionsFit_sivEncOf_iff ks s)
  | aeadDec ks =>
    exact regionsDecide_decrypting (exec_aeadDecOf ks s) (decrypts_aeadDecOf ks) (regionsFit_aeadDecOf_iff ks s)
      aeadDecrypt_eq_lengthError_iff hshort
  | sivDec ks =>
    exact regionsDecide_decrypting (exec_sivDecOf ks s) (decrypts_sivDecOf ks) (regionsFit_sivDecOf_iff ks s)
      sivDecrypt_eq_lengthError_iff hshort
  | hashUpdate =>
    have hopen : ¬s.hashActive = false := fun h => hstream ⟨rfl, h⟩
    have hexec := execHashUpdate_eq s
    rw [if_neg hopen] at hexec
    exact regionsDecide_of_exec_eq hexec (regionsValid_hashUpdate_iff s) (.inl (complete_err _ _))
  | hashFinal =>
    have hopen : ¬s.hashActive = false := fun h => hstream ⟨rfl, h⟩
    have hexec := execHashFinal_eq s
    rw [if_neg hopen] at hexec
    exact regionsDecide_of_exec_eq hexec (regionsValid_hashFinal_iff s) (.inl (complete_err _ _))
  | hash => exact regionsDecide_of_exec_eq (execHash_eq s) (regionsValid_hash_iff s) (.inl (complete_err _ _))

/-! ### The order of the checks (R307) -/

/-- The first failing check of a command decides the error it ends with. -/
def EndsInOrder (i : Instr) (s t : State) : Prop :=
  (LacksStream i s → OnlyReports .seqErr s t) ∧
    (InputTooShort i s → OnlyReports .lenErr s t) ∧
    (¬LacksStream i s → ¬InputTooShort i s → ¬RegionsFit i s → OnlyReports .addrErr s t) ∧
    (¬LacksStream i s → ¬InputTooShort i s → RegionsFit i s → t.err = .none ∨ decrypts i = true ∧ t.err = .authFail)

theorem exec_endsInOrder (i : Instr) (s : State) : ∃ t, exec i s = .next t ∧ EndsInOrder i s t := by
  by_cases hstream : LacksStream i s
  · exact ⟨_, exec_of_lacksStream hstream, fun _ => raise_onlyReports .seqErr s,
      fun h => absurd h (not_inputTooShort_of_lacksStream hstream), absurd hstream, absurd hstream⟩
  · by_cases hshort : InputTooShort i s
    · exact ⟨_, exec_of_inputTooShort hshort, fun h => absurd h hstream, fun _ => raise_onlyReports .lenErr s,
        fun _ => absurd hshort, fun _ => absurd hshort⟩
    · obtain ⟨t, hexec, hinvalid, hvalid⟩ := regionsDecide_of_checks hstream hshort
      exact ⟨t, hexec, fun h => absurd h hstream, fun h => absurd h hshort, fun _ _ => hinvalid, fun _ _ => hvalid⟩

theorem step_of_decode_ok {s : State} {i : Instr} (hbusy : s.busy = true) (hturn : coresTurn s = true)
    (hdecode : decode s.cmd = .ok i) : step s = exec i s := by
  rw [step, if_pos hturn, coreTurn, if_pos hbusy, hdecode]

/-- Settles O45: the decoder's answer decides between `CMD_ERR` and the checks of the decoded command. -/
theorem checksInPriorityOrder : Obligations.ChecksInPriorityOrder := by
  unfold Obligations.ChecksInPriorityOrder
  intro s hbusy hturn
  cases hdecode : decode s.cmd with
  | error e =>
    exact ⟨_, step_of_decode_error hbusy hturn ⟨e, hdecode⟩, fun _ => raise_onlyReports .cmdErr s, nofun⟩
  | ok i =>
    have hlegal : ¬WordIllegal s.cmd := by simp [← decode_error_iff_wordIllegal, hdecode]
    obtain ⟨t, hexec, horder⟩ := exec_endsInOrder i s
    refine ⟨t, (step_of_decode_ok hbusy hturn hdecode).trans hexec, fun h => absurd h hlegal, fun j hj => ?_⟩
    cases hj
    exact horder

end Sys2Proof.Exceptions

/-! ## The encoder and the decoder (30_encoding.md sections 1 and 3)

A word whose reserved bits are zero is `commandOf` of its other three fields. The decoder answers a command exactly when the command is
encoded from these fields, so the two directions meet in one equation per family of commands. -/

namespace Sys2Proof.Encoding

open Sys2Proof.Machine Sys2Proof.Claims Sys2Proof.SystemCommands Sys2Proof.AeadMode Sys2Proof.SivMode Sys2Proof.Exceptions

/-! ### The word of a family of commands (R95) -/

theorem encode_permOf (ks : KeySize) (rounds : Nat) : encode (permOf ks rounds) = commandOf 0x02 (ksCode ks) rounds := by
  cases ks <;> rfl

theorem encode_aeadEncOf (ks : KeySize) : encode (aeadEncOf ks) = commandOf 0x10 (ksCode ks) 0 := by cases ks <;> rfl

theorem encode_aeadDecOf (ks : KeySize) : encode (aeadDecOf ks) = commandOf 0x11 (ksCode ks) 0 := by cases ks <;> rfl

theorem encode_sivEncOf (ks : KeySize) : encode (sivEncOf ks) = commandOf 0x12 (ksCode ks) 0 := by cases ks <;> rfl

theorem encode_sivDecOf (ks : KeySize) : encode (sivDecOf ks) = commandOf 0x13 (ksCode ks) 0 := by cases ks <;> rfl

/-- R93: only the round count of `PERM` has to fit its field. -/
theorem wellFormed_permOf_iff (ks : KeySize) (rounds : Nat) : (permOf ks rounds).wellFormed = true ↔ rounds < 65536 := by
  cases ks <;> exact decide_eq_true_iff

/-- Settles O1: the families with a key size by the words that earlier results decode, the six keyless words by evaluation. -/
theorem decodeInvertsEncode : Obligations.DecodeInvertsEncode := by
  unfold Obligations.DecodeInvertsEncode
  intro i hwf
  cases i using instr_families with
  | perm ks rounds => rw [encode_permOf, decode_permOf ks ((wellFormed_permOf_iff ks rounds).1 hwf)]
  | aeadEnc ks => rw [encode_aeadEncOf, decode_aeadEncOf]
  | aeadDec ks => rw [encode_aeadDecOf, decode_aeadDecOf]
  | sivEnc ks => rw [encode_sivEncOf, decode_sivEncOf]
  | sivDec ks => rw [encode_sivDecOf, decode_sivDecOf]
  | nop | clean | hashInit | hashUpdate | hashFinal | hash => rfl

/-! ### What a decoded word is the encoding of -/

theorem commandOf_fields {c : Word} (hrsv : rsvField c = 0) : commandOf (opField c) (ksField c) (roundsField c) = c := by
  rw [rsvField_eq] at hrsv
  rw [opField_eq, ksField_eq, roundsField_eq, commandOf, ← BitVec.toNat_inj, BitVec.toNat_ofNat]
  omega

theorem roundsField_lt (c : Word) : roundsField c < 65536 := (c.extractLsb' 16 16).isLt

theorem decodeKeySize_ok {c : Word} {ks : KeySize} (h : decodeKeySize c = .ok ks) : ksField c = ksCode ks := by
  obtain hks | hks | hks | hks := ksField_cases c <;> simp only [decodeKeySize, hks] at h <;> cases h <;> exact hks

/-- `PERM` keeps both fields: the key size as the command, the round count as its immediate. -/
theorem decodePerm_ok_fields {c : Word} {i : Instr} (h : decodePerm c = .ok i) :
    ∃ ks, ksField c = ksCode ks ∧ i = permOf ks (roundsField c) := by
  unfold decodePerm at h
  split at h
  · cases h
  all_goals
    next hks =>
      cases h
      exact ⟨_, decodeKeySize_ok hks, rfl⟩

/-- A mode command is selected by the key size, and the round count is zero. -/
theorem decodeMode_ok_fields {c : Word} {family : KeySize → Instr} {i : Instr}
    (h : decodeMode c (family .k128) (family .k192) (family .k256) = .ok i) :
    ∃ ks, ksField c = ksCode ks ∧ roundsField c = 0 ∧ i = family ks := by
  unfold decodeMode at h
  split at h
  · cases h
  next ks hks =>
    split at h
    · cases h
    next hrounds => exact ⟨ks, decodeKeySize_ok hks, not_not.1 hrounds, by cases ks <;> cases h <;> rfl⟩

/-- The command `i` is well formed and `c` is its word. -/
abbrev IsWordOf (c : Word) (i : Instr) : Prop := i.wellFormed = true ∧ encode i = c

theorem isWordOf_keyless {c : Word} {i j : Instr} {op : Nat} (hrsv : rsvField c = 0) (hop : opField c = op)
    (hi : IsWordOf (commandOf op 0 0) i) (h : decodeKeyless c i = .ok j) : IsWordOf c j := by
  obtain ⟨hks, hrounds, rfl⟩ := (decodeKeyless_ok_iff c i j).1 h
  rwa [← commandOf_fields hrsv, hop, hks, hrounds]

theorem isWordOf_mode {c : Word} {family : KeySize → Instr} {i : Instr} {op : Nat} (hrsv : rsvField c = 0) (hop : opField c = op)
    (hfamily : ∀ ks, IsWordOf (commandOf op (ksCode ks) 0) (family ks))
    (h : decodeMode c (family .k128) (family .k192) (family .k256) = .ok i) : IsWordOf c i := by
  obtain ⟨ks, hks, hrounds, rfl⟩ := decodeMode_ok_fields h
  rw [← commandOf_fields hrsv, hop, hks, hrounds]
  exact hfamily ks

theorem isWordOf_perm {c : Word} {i : Instr} (hrsv : rsvField c = 0) (hop : opField c = 0x02) (h : decodePerm c = .ok i) :
    IsWordOf c i := by
  obtain ⟨ks, hks, rfl⟩ := decodePerm_ok_fields h
  refine ⟨(wellFormed_permOf_iff ks _).2 (roundsField_lt c), ?_⟩
  rw [encode_permOf, ← hks, ← hop, commandOf_fields hrsv]

/-- Settles O2: each arm of the decoder fixes the fields that the command it answers does not carry. -/
theorem encodeInvertsDecode : Obligations.EncodeInvertsDecode := by
  unfold Obligations.EncodeInvertsDecode
  intro c i h
  unfold decode at h
  split at h
  · cases h
  next hrsv =>
    have hrsv : rsvField c = 0 := not_not.1 hrsv
    split at h
    case h_1 hop | h_2 hop | h_8 hop | h_9 hop | h_10 hop | h_11 hop => exact isWordOf_keyless hrsv hop ⟨rfl, rfl⟩ h
    case h_3 hop => exact isWordOf_perm hrsv hop h
    case h_4 hop =>
      exact isWordOf_mode (family := aeadEncOf) hrsv hop (fun ks => ⟨by cases ks <;> rfl, encode_aeadEncOf ks⟩) h
    case h_5 hop =>
      exact isWordOf_mode (family := aeadDecOf) hrsv hop (fun ks => ⟨by cases ks <;> rfl, encode_aeadDecOf ks⟩) h
    case h_6 hop =>
      exact isWordOf_mode (family := sivEncOf) hrsv hop (fun ks => ⟨by cases ks <;> rfl, encode_sivEncOf ks⟩) h
    case h_7 hop =>
      exact isWordOf_mode (family := sivDecOf) hrsv hop (fun ks => ⟨by cases ks <;> rfl, encode_sivDecOf ks⟩) h
    case h_12 => cases h

/-! ### The rows of the opcode table, and words of it -/

/-- Two rows whose patterns differ in a bit that both of them fix. -/
def RowsApart (r q : OpcodeRow) : Prop := r.pattern &&& q.mask ≠ q.pattern &&& r.mask

theorem RowsApart.disjoint {r q : OpcodeRow} (h : RowsApart r q) (c : Word) :
    ¬((c &&& r.mask) = r.pattern ∧ (c &&& q.mask) = q.pattern) := by
  rintro ⟨hr, hq⟩
  have hboth : c &&& r.mask &&& q.mask = c &&& q.mask &&& r.mask := by
    rw [BitVec.and_assoc, BitVec.and_comm r.mask, ← BitVec.and_assoc]
  rw [hr, hq] at hboth
  exact h hboth

theorem opcodeTable_pairwise_apart : opcodeTable.Pairwise RowsApart := by
  unfold RowsApart
  decide

/-- Settles O4: any two rows differ in a bit that both fix. -/
theorem opcodeRowsDisjoint : Obligations.OpcodeRowsDisjoint := by
  unfold Obligations.OpcodeRowsDisjoint
  exact opcodeTable_pairwise_apart.imp RowsApart.disjoint

/-- Settles O5, by running the decoder on the twelve words. -/
theorem sampleWordsDecode : Obligations.SampleWordsDecode := by
  unfold Obligations.SampleWordsDecode
  exact ⟨rfl, rfl, rfl, rfl, rfl, rfl, rfl, rfl, rfl, rfl, rfl, rfl⟩

end Sys2Proof.Encoding

/-! ## What every command leaves (45_system_commands.md R254)

Whatever a command does, it ends in the epilogue, on the hash registers and the output bytes that its body left. The frames over all
commands, and that no command breaks the invariant, follow from this form. -/

namespace Sys2Proof.CommandFrames

open Sys2Proof.Machine Sys2Proof.Claims Sys2Proof.Encoding Sys2Proof.ModeCommands Sys2Proof.AeadMode Sys2Proof.SivMode
  Sys2Proof.HashStream Sys2Proof.HashCommands Sys2Proof.SystemCommands Sys2Proof.Exceptions

/-! ### The form of an answer -/

/-- The hash registers and `HASH_ACTIVE` that a command can leave (R28, R234 to R240, R251). -/
inductive HashAfter (i : Instr) (s : State) : HashRegs → Bool → Prop
  | kept : HashAfter i s s.hash s.hashActive
  | cleared (active : Bool) (htouch : touchesHash i = true) : HashAfter i s HashRegs.zero active
  | updated (rounds : Nat) (data : List Byte) (e : Engine) (htouch : touchesHash i = true) (hopen : s.hashActive = true) :
    HashAfter i s (hashUpdate rounds data (s.hash, e)).1 true

/-- The bytes that a command can write at `OUT_ADDR`: none, or its whole output into a valid region (R67, R96). -/
def OutputAfter (i : Instr) (s : State) (out : List Byte) : Prop :=
  out = [] ∨ out.length = outputBytes i s ∧ Fits s s.ops.outAddr.toNat (outputBytes i s)

/-- The end of a command: the hash registers and the output bytes are in place, then the epilogue runs. -/
def commandEnd (err : Err) (n : Nat) (h : HashRegs) (active : Bool) (out : List Byte) (s : State) : State :=
  epilogue err n (writeBack { s with hash := h, hashActive := active } s.ops.outAddr.toNat out)

/-- `t` is an end of the command `i` that starts in `s`. -/
inductive CommandLeaves (i : Instr) (s : State) : State → Prop
  | mk (err : Err) (n : Nat) {h : HashRegs} {active : Bool} {out : List Byte} (hhash : HashAfter i s h active)
    (hout : OutputAfter i s out) : CommandLeaves i s (commandEnd err n h active out s)

theorem CommandLeaves.raise (i : Instr) (e : Err) (s : State) : CommandLeaves i s (raise e s) := .mk e 0 .kept (.inl rfl)

theorem outputBytes_permOf (ks : KeySize) (rounds : Nat) (s : State) : outputBytes (permOf ks rounds) s = 16 := by cases ks <;> rfl

theorem outputBytes_aeadEncOf (ks : KeySize) (s : State) : outputBytes (aeadEncOf ks) s = s.ops.inLen.toNat + 8 := by
  cases ks <;> rfl

theorem outputBytes_sivEncOf (ks : KeySize) (s : State) : outputBytes (sivEncOf ks) s = s.ops.inLen.toNat + 8 := by
  cases ks <;> rfl

theorem outputBytes_aeadDecOf (ks : KeySize) (s : State) : outputBytes (aeadDecOf ks) s = s.ops.inLen.toNat - 8 := by
  cases ks <;> rfl

theorem outputBytes_sivDecOf (ks : KeySize) (s : State) : outputBytes (sivDecOf ks) s = s.ops.inLen.toNat - 8 := by
  cases ks <;> rfl

/-! ### The families of commands -/

theorem execEncrypting_leaves {i : Instr} {f : EncryptFun} (ks : KeySize) (s : State)
    (hbytes : outputBytes i s = s.ops.inLen.toNat + 8)
    (hlen : ∀ rc key nonce ad x e, (f rc key nonce ad x e).1.length = x.length + 8) :
    ∃ t, execEncrypting f ks s = .next t ∧ CommandLeaves i s t := by
  refine ⟨_, execEncrypting_eq f ks s, ?_⟩
  split
  next hvalid =>
    obtain ⟨-, -, -, -, hfits⟩ := (regionsValid_modeRegions_iff ks _ s).1 hvalid
    have hout : (encryptRun f ks s).1.length = outputBytes i s := by rw [encryptRun_eq, hlen, length_dataIn, hbytes]
    exact .mk .none _ .kept (.inr ⟨hout, by rwa [hbytes]⟩)
  next => exact .raise i .addrErr s

theorem execDecrypting_leaves {i : Instr} {f : DecryptFun} (ks : KeySize) (s : State)
    (hbytes : outputBytes i s = s.ops.inLen.toNat - 8)
    (hlen : ∀ {rc key nonce ad x pt e}, (f rc key nonce ad x e).1 = .plaintext pt → pt.length + 8 = x.length) :
    ∃ t, execDecrypting f ks s = .next t ∧ CommandLeaves i s t := by
  refine ⟨_, execDecrypting_eq f ks s, ?_⟩
  split
  next => exact .raise i .lenErr s
  next =>
    split
    next hvalid =>
      obtain ⟨-, -, -, -, hfits⟩ := (regionsValid_modeRegions_iff ks _ s).1 hvalid
      rw [← hbytes] at hfits
      obtain ⟨pt, hr, ht⟩ | ⟨-, ht⟩ | ⟨-, ht⟩ := decryptEnd_cases (decryptRun f ks s) s
      · rw [decryptRun_eq] at hr
        have hpt := hlen hr
        rw [length_dataIn] at hpt
        exact ht ▸ .mk .none _ .kept (.inr ⟨by omega, hfits⟩)
      · exact ht ▸ .mk .authFail _ .kept (.inr ⟨List.length_replicate.trans hbytes.symm, hfits⟩)
      · exact ht ▸ .mk .lenErr _ .kept (.inl rfl)
    next => exact .raise i .addrErr s

theorem execPerm_leaves {i : Instr} (ks : KeySize) (rounds : Nat) (s : State) (hbytes : outputBytes i s = 16) :
    ∃ t, execPerm ks rounds s = .next t ∧ CommandLeaves i s t := by
  refine ⟨_, execPerm_eq ks rounds s, ?_⟩
  split
  next hvalid =>
    obtain ⟨-, -, hfits⟩ := (regionsValid_permRegions_iff ks s).1 hvalid
    exact .mk .none 16 .kept (.inr ⟨hbytes ▸ length_quadBytes _, by rwa [hbytes]⟩)
  next => exact .raise i .addrErr s

/-- R235: a digest is the two halves of a chaining value. -/
theorem length_hashFinalize (rounds : Nat) (p : HashRegs × Engine) : (hashFinalize rounds p).1.length = 32 := rfl

theorem execHashUpdate_leaves (s : State) : ∃ t, execHashUpdate s = .next t ∧ CommandLeaves .hashUpdate s t := by
  refine ⟨_, execHashUpdate_eq s, ?_⟩
  split
  next => exact .raise _ .seqErr s
  next hopen =>
    have hopen : s.hashActive = true := by simpa using hopen
    split
    next =>
      have hafter : HashAfter .hashUpdate s (hashUpdateRun s).1 s.hashActive := by
        rw [hopen]
        exact .updated _ _ _ rfl hopen
      exact .mk .none 0 hafter (.inl rfl)
    next => exact .raise _ .addrErr s

theorem execHashFinal_leaves (s : State) : ∃ t, execHashFinal s = .next t ∧ CommandLeaves .hashFinal s t := by
  refine ⟨_, execHashFinal_eq s, ?_⟩
  split
  next => exact .raise _ .seqErr s
  next =>
    split
    next hvalid =>
      obtain ⟨-, -, -, hfits⟩ := (regionsValid_hashFinal_iff s).1 hvalid
      exact .mk .none 32 (.cleared false rfl) (.inr ⟨length_hashFinalize _ _, hfits⟩)
    next => exact .raise _ .addrErr s

theorem execHash_leaves (s : State) : ∃ t, execHash s = .next t ∧ CommandLeaves .hash s t := by
  refine ⟨_, execHash_eq s, ?_⟩
  split
  next hvalid =>
    obtain ⟨-, -, -, hfits⟩ := (regionsValid_hash_iff s).1 hvalid
    exact .mk .none 32 (.cleared false rfl) (.inr ⟨length_hashFinalize _ _, hfits⟩)
  next => exact .raise _ .addrErr s

/-- R254, R312: every command ends, and in this form. -/
theorem exec_leaves (i : Instr) (s : State) : ∃ t, exec i s = .next t ∧ CommandLeaves i s t := by
  cases i using instr_families with
  | nop => exact ⟨_, exec_nop s, .mk .none 0 .kept (.inl rfl)⟩
  | clean => exact ⟨_, exec_clean s, .mk .none 0 (.cleared false rfl) (.inl rfl)⟩
  | perm ks rounds => rw [exec_permOf]; exact execPerm_leaves ks rounds s (outputBytes_permOf ks rounds s)
  | aeadEnc ks => rw [exec_aeadEncOf]; exact execEncrypting_leaves ks s (outputBytes_aeadEncOf ks s) length_aeadEncrypt
  | aeadDec ks => rw [exec_aeadDecOf]; exact execDecrypting_leaves ks s (outputBytes_aeadDecOf ks s) length_of_aeadDecrypt
  | sivEnc ks => rw [exec_sivEncOf]; exact execEncrypting_leaves ks s (outputBytes_sivEncOf ks s) length_sivEncrypt
  | sivDec ks => rw [exec_sivDecOf]; exact execDecrypting_leaves ks s (outputBytes_sivDecOf ks s) length_of_sivDecrypt
  | hashInit => exact ⟨_, exec_hashInit s, .mk .none 0 (.cleared true rfl) (.inl rfl)⟩
  | hashUpdate => exact execHashUpdate_leaves s
  | hashFinal => exact execHashFinal_leaves s
  | hash => exact execHash_leaves s

theorem commandLeaves_of_exec {i : Instr} {s t : State} (h : exec i s = .next t) : CommandLeaves i s t := by
  obtain ⟨u, hexec, hleaves⟩ := exec_leaves i s
  rw [h] at hexec
  cases hexec
  exact hleaves

/-! ### The frames over all commands -/

theorem CommandLeaves.keepsHost {i : Instr} {s t : State} (h : CommandLeaves i s t) : KeepsHost s t := by
  cases h
  exact ⟨rfl, rfl, rfl, rfl, rfl⟩

/-- Settles O47: the epilogue, the write-back and the hash registers are all that a command touches. -/
theorem commandsKeepHostRegisters : Obligations.CommandsKeepHostRegisters := by
  unfold Obligations.CommandsKeepHostRegisters
  exact fun i s t h => (commandLeaves_of_exec h).keepsHost

/-- Settles O48: what a command writes is nothing or the whole of a valid output region. -/
theorem commandsWriteOnlyOutput : Obligations.CommandsWriteOnlyOutput := by
  unfold Obligations.CommandsWriteOnlyOutput
  intro i s t h
  obtain ⟨err, n, -, rfl | ⟨hlen, hfits⟩⟩ := commandLeaves_of_exec h
  · exact ⟨fun x _ => rfl, fun _ => rfl⟩
  · exact ⟨fun x hx => memByte_memWrite_outside s.mem _ (hlen.symm ▸ hx), fun h => absurd hfits h⟩

/-- Settles O49: the hash registers change only in commands that touch them. -/
theorem cipherCommandsKeepHash : Obligations.CipherCommandsKeepHash := by
  unfold Obligations.CipherCommandsKeepHash
  intro i s t hkeeps h
  obtain ⟨err, n, hhash, -⟩ := commandLeaves_of_exec h
  cases hhash with
  | kept => exact ⟨rfl, rfl⟩
  | cleared _ htouch | updated _ _ _ htouch _ => simp [hkeeps] at htouch

/-! ### Every command word completes (R312) -/

/-- What the Host finds after a command, whatever its error (R254). -/
structure CommandDone (t : State) : Prop where
  busy : t.busy = false
  done : t.done = true
  phase : t.phase = .idle
  dp : t.dp = Datapath.zero

theorem epilogue_commandDone (e : Err) (n : Nat) (s : State) : CommandDone (epilogue e n s) := ⟨rfl, rfl, rfl, rfl⟩

theorem CommandLeaves.commandDone {i : Instr} {s t : State} (h : CommandLeaves i s t) : CommandDone t := by
  cases h
  exact epilogue_commandDone _ _ _

theorem exists_step_commandDone {s : State} (hbusy : s.busy = true) (hturn : coresTurn s = true) :
    ∃ t, step s = .next t ∧ CommandDone t := by
  cases hdecode : decode s.cmd with
  | error e => exact ⟨_, step_of_decode_error hbusy hturn ⟨e, hdecode⟩, epilogue_commandDone .cmdErr 0 s⟩
  | ok i =>
    obtain ⟨t, hexec, hleaves⟩ := exec_leaves i s
    exact ⟨t, (step_of_decode_ok hbusy hturn hdecode).trans hexec, hleaves.commandDone⟩

/-- Settles O46: a legal word runs a command, an illegal one raises `CMD_ERR`, and both run the epilogue. -/
theorem everyCommandWordCompletes : Obligations.EveryCommandWordCompletes := by
  unfold Obligations.EveryCommandWordCompletes
  intro s c _
  obtain ⟨t, hstep, hend⟩ := exists_step_commandDone (s := { acceptCommand c s with schedule := [] }) rfl rfl
  exact ⟨t, hstep, hend.busy, hend.done, hend.phase, hend.dp⟩

/-! ### The hash registers keep their form (R27, R28) -/

theorem tailZero_zero : HashRegs.zero.tailZero := fun i hi _ => by simp [HashRegs.zero]

/-- A byte put at the position moves the zero tail up by one; a compressed block leaves a zero buffer. -/
theorem hashByte_tailZero (rounds : Nat) {h : HashRegs} (e : Engine) (b : Byte) (htail : h.tailZero) :
    (hashByte rounds (h, e) b).1.tailZero := by
  by_cases hfull : h.hpos + 1 = 16
  · rw [hashByte, if_pos hfull]
    exact fun i hi _ => by simp
  · rw [hashByte, if_neg hfull]
    intro i hi hpos
    have hpos : h.hpos + 1 ≤ i := hpos
    have hother : h.hpos ≠ i := by omega
    exact (Vector.getElem_setIfInBounds_ne hi hother).trans (htail i hi (by omega))

theorem hashUpdate_tailZero (rounds : Nat) (data : List Byte) {h : HashRegs} (e : Engine) (htail : h.tailZero) :
    (hashUpdate rounds data (h, e)).1.tailZero := by
  induction data generalizing h e with
  | nil => exact htail
  | cons b data ih => exact ih (hashByte rounds (h, e) b).2 (hashByte_tailZero rounds e b htail)

/-! ### The invariant (R312, R351) -/

/-- What the invariant says of the hash registers (R27, R28, R351). -/
structure HashInv (h : HashRegs) (active : Bool) : Prop where
  pos : h.hpos ≤ 15
  tail : h.tailZero
  inactive : active = false → h = HashRegs.zero

theorem hashInv_zero (active : Bool) : HashInv HashRegs.zero active := ⟨Nat.zero_le 15, tailZero_zero, fun _ => rfl⟩

theorem HashAfter.hashInv {i : Instr} {s : State} {h : HashRegs} {active : Bool} (hafter : HashAfter i s h active)
    (hinv : HashInv s.hash s.hashActive) : HashInv h active := by
  cases hafter with
  | kept => exact hinv
  | cleared active => exact hashInv_zero active
  | updated rounds data e =>
    exact ⟨(hashUpdate_holdsStream rounds data e hinv.pos).pos, hashUpdate_tailZero rounds data e hinv.tail, nofun⟩

/-- What the invariant says of MEM (R60, R72). -/
structure MemInv (c : Config) (m : Memory) : Prop where
  wf : Memory.wf m = true
  inside : memInside c m

theorem MemInv.memWrite {c : Config} {m : Memory} (h : MemInv c m) {a : Nat} {bytes : List Byte}
    (hfits : bytes.length = 0 ∨ a + bytes.length ≤ c.memSize) : MemInv c (memWrite m a bytes) := by
  refine ⟨memWrite_wf m a bytes h.wf, fun cell hcell => ?_⟩
  obtain ⟨hlow, hhigh⟩ | hold := mem_memWrite m a bytes cell hcell
  · omega
  · exact h.inside cell hold

theorem hashInv_of_inv {s : State} (h : s.Inv) : HashInv s.hash s.hashActive := ⟨h.hposBound, h.hbufTail, h.inactiveZero⟩

theorem memInv_of_inv {s : State} (h : s.Inv) : MemInv s.config s.mem := ⟨h.memWf, h.memInside⟩

theorem epilogue_inv (e : Err) (n : Nat) {s : State} (hhash : HashInv s.hash s.hashActive) (hmem : MemInv s.config s.mem) :
    (epilogue e n s).Inv where
  busyPhase := iff_of_true rfl rfl
  busyDone := nofun
  errDone := fun _ => rfl
  errOutLen := fun he => if_neg he
  idleZero := fun _ => rfl
  kwLegal := .inl rfl
  hposBound := hhash.pos
  hbufTail := hhash.tail
  inactiveZero := hhash.inactive
  memWf := hmem.wf
  memInside := hmem.inside

theorem CommandLeaves.inv {i : Instr} {s t : State} (h : CommandLeaves i s t) (hinv : s.Inv) : t.Inv := by
  obtain ⟨err, n, hhash, hout⟩ := h
  refine epilogue_inv err n (hhash.hashInv (hashInv_of_inv hinv)) ((memInv_of_inv hinv).memWrite ?_)
  obtain rfl | ⟨hlen, hfits⟩ := hout
  · exact .inl rfl
  · rwa [hlen]

/-- The invariant says nothing of `CMD`, the operand registers and the Host's side. -/
theorem inv_of_host_eq {s t : State} (hinv : s.Inv)
    (h : t = { s with cmd := t.cmd, ops := t.ops, schedule := t.schedule, replies := t.replies }) : t.Inv := by
  rw [h]
  exact ⟨hinv.busyPhase, hinv.busyDone, hinv.errDone, hinv.errOutLen, hinv.idleZero, hinv.kwLegal, hinv.hposBound, hinv.hbufTail,
    hinv.inactiveZero, hinv.memWf, hinv.memInside⟩

theorem acceptCommand_inv (c : Word) {s : State} (hinv : s.Inv) : (acceptCommand c s).Inv where
  busyPhase := iff_of_false nofun nofun
  busyDone := nofun
  errDone := fun h => absurd rfl h
  errOutLen := fun h => absurd rfl h
  idleZero := nofun
  kwLegal := hinv.kwLegal
  hposBound := hinv.hposBound
  hbufTail := hinv.hbufTail
  inactiveZero := hinv.inactiveZero
  memWf := hinv.memWf
  memInside := hinv.memInside

theorem regWrite_inv (offset : Nat) (v : Word) {s : State} (hinv : s.Inv) : (regWrite offset v s).Inv := by
  unfold regWrite
  split
  · exact hinv
  · unfold regWriteIdle
    split
    case h_1 => exact acceptCommand_inv v hinv
    all_goals exact inv_of_host_eq hinv rfl

theorem writeBack_inv {s : State} {a : Nat} {bytes : List Byte} (hinv : s.Inv)
    (hvalid : regionValid s.config ⟨a, bytes.length⟩ = true) : (writeBack s a bytes).Inv where
  busyPhase := hinv.busyPhase
  busyDone := hinv.busyDone
  errDone := hinv.errDone
  errOutLen := hinv.errOutLen
  idleZero := hinv.idleZero
  kwLegal := hinv.kwLegal
  hposBound := hinv.hposBound
  hbufTail := hinv.hbufTail
  inactiveZero := hinv.inactiveZero
  memWf := ((memInv_of_inv hinv).memWrite ((regionValid_iff _ _).1 hvalid)).wf
  memInside := ((memInv_of_inv hinv).memWrite ((regionValid_iff _ _).1 hvalid)).inside

/-- R45 and R341: the registers after reset meet the invariant, with a MEM that does. -/
theorem inv_of_reset_registers {c : Config} {m : Memory} (hmem : MemInv c m) (schedule : List Move) (replies : List Reply) :
    ({ State.resetWith c with mem := m, schedule := schedule, replies := replies } : State).Inv where
  busyPhase := iff_of_true rfl rfl
  busyDone := nofun
  errDone := fun h => absurd rfl h
  errOutLen := fun _ => rfl
  idleZero := fun _ => rfl
  kwLegal := .inl rfl
  hposBound := Nat.zero_le 15
  hbufTail := tailZero_zero
  inactiveZero := fun _ => rfl
  memWf := hmem.wf
  memInside := hmem.inside

theorem hostMove_inv {m : Move} {s t : State} (hinv : s.Inv) (h : hostMove m s = .next t) : t.Inv := by
  obtain ⟨offset, v, -, rfl⟩ | ⟨offset, -, rfl⟩ | ⟨a, bytes, -, -, hvalid, rfl⟩ | ⟨a, n, -, -, rfl⟩ | ⟨-, rfl⟩ | ⟨-, rfl⟩ :=
    hostMove_next m s t h
  · exact regWrite_inv offset v hinv
  · exact inv_of_host_eq hinv rfl
  · exact writeBack_inv hinv hvalid
  · exact inv_of_host_eq hinv rfl
  · exact hinv
  · exact inv_of_reset_registers (memInv_of_inv hinv) s.schedule s.replies

/-- Settles O52: a step is a command, an illegal word, nothing, or a move of the Host or the platform, and each keeps the invariant. -/
theorem stepKeepsInvariant : Obligations.StepKeepsInvariant := by
  unfold Obligations.StepKeepsInvariant
  intro s t hinv hstep
  obtain ⟨-, -, ⟨i, -, hexec⟩ | ⟨-, rfl⟩⟩ | ⟨-, -, rfl⟩ | ⟨-, m, rest, -, hmove⟩ := step_cases s t hstep
  · exact (commandLeaves_of_exec hexec).inv hinv
  · exact epilogue_inv .cmdErr 0 (hashInv_of_inv hinv) (memInv_of_inv hinv)
  · exact hinv
  · exact hostMove_inv (inv_of_host_eq hinv rfl) hmove

/-- Settles O53: nothing has been written to MEM, and the registers are those of R45. -/
theorem resetHasInvariant : Obligations.ResetHasInvariant := by
  unfold Obligations.ResetHasInvariant
  exact fun c => inv_of_reset_registers ⟨reset_mem_wf c, nofun⟩ [] []

end Sys2Proof.CommandFrames

/-! ## The commands over a hash stream (44_hash.md R234 to R240)

A hash command ends in a state that depends on the hash registers and the digest only, not on the engine that computed them. So the
three commands of a stream meet `HASH`, and two inputs in a row meet their concatenation. -/

namespace Sys2Proof.HashCommands

open Sys2Proof.Machine Sys2Proof.Claims Sys2Proof.Encoding Sys2Proof.ModeCommands Sys2Proof.HashStream Sys2Proof.SystemCommands
  Sys2Proof.Exceptions Sys2Proof.CommandFrames

/-! ### The checks of the hash commands -/

theorem regionsFit_hashUpdate_iff (s : State) : RegionsFit .hashUpdate s ↔ Fits s s.ops.inAddr.toNat s.ops.inLen.toNat := by
  simp [RegionsFit, Fits, keySizeOf, isMode, inputBytes, outputBytes]

theorem regionsFit_hashFinal_iff (s : State) : RegionsFit .hashFinal s ↔ Fits s s.ops.outAddr.toNat 32 := by
  simp [RegionsFit, keySizeOf, isMode, inputBytes, outputBytes]

theorem regionsFit_hash_iff (s : State) :
    RegionsFit .hash s ↔ Fits s s.ops.inAddr.toNat s.ops.inLen.toNat ∧ Fits s s.ops.outAddr.toNat 32 := by
  simp [RegionsFit, keySizeOf, isMode, inputBytes, outputBytes]

/-- R304 and R307: past the other checks, an invalid region is reported. -/
theorem exists_addrErr {i : Instr} {s : State} (hstream : ¬LacksStream i s) (hshort : ¬InputTooShort i s) (hfits : ¬RegionsFit i s) :
    ∃ t, exec i s = .next t ∧ OnlyReports .addrErr s t := by
  obtain ⟨t, hexec, hinvalid, -⟩ := regionsDecide_of_checks hstream hshort
  exact ⟨t, hexec, hinvalid hfits⟩

/-- R302: without a stream the sequence error is reported. -/
theorem exists_seqErr {i : Instr} {s : State} (hstream : LacksStream i s) : ∃ t, exec i s = .next t ∧ OnlyReports .seqErr s t :=
  ⟨_, exec_of_lacksStream hstream, raise_onlyReports .seqErr s⟩

/-! ### How the hash commands end -/

theorem exec_hashUpdate_of_fits {s : State} (hopen : s.hashActive = true) (hfits : Fits s s.ops.inAddr.toNat s.ops.inLen.toNat) :
    exec .hashUpdate s = .next (hashUpdateEnd (hashUpdateRun s) s) := by
  have hvalid := (regionsValid_hashUpdate_iff s).2 ((regionsFit_hashUpdate_iff s).2 hfits)
  refine (execHashUpdate_eq s).trans ?_
  rw [if_neg (by simp [hopen]), if_pos hvalid]

theorem exec_hashFinal_of_fits {s : State} (hopen : s.hashActive = true) (hfits : Fits s s.ops.outAddr.toNat 32) :
    exec .hashFinal s = .next (digestEnd (hashFinalize (hashRounds s.config) (s.hash, startHash s)) s) := by
  have hvalid := (regionsValid_hashFinal_iff s).2 ((regionsFit_hashFinal_iff s).2 hfits)
  refine (execHashFinal_eq s).trans ?_
  rw [if_neg (by simp [hopen]), if_pos hvalid]

theorem exec_hash_of_fits {s : State} (hin : Fits s s.ops.inAddr.toNat s.ops.inLen.toNat) (hout : Fits s s.ops.outAddr.toNat 32) :
    exec .hash s = .next (digestEnd (hashMessage (hashRounds s.config) (dataIn s) (startHash s)) s) := by
  have hvalid := (regionsValid_hash_iff s).2 ((regionsFit_hash_iff s).2 ⟨hin, hout⟩)
  refine (execHash_eq s).trans ?_
  rw [if_pos hvalid]
  rfl

/-- The end of a command that wrote a digest and closed the stream, without the engine that computed it. -/
def digestState (digest : List Byte) (s : State) : State :=
  complete 32 (writeBack { s with hash := HashRegs.zero, hashActive := false } s.ops.outAddr.toNat digest)

theorem digestEnd_hashFinalize (rounds : Nat) (p : HashRegs × Engine) (s : State) :
    digestEnd (hashFinalize rounds p) s = digestState (hashFinalize rounds p).1 s := rfl

theorem memRead_digestState {digest : List Byte} (h32 : digest.length = 32) (s : State) :
    memRead (digestState digest s).mem s.ops.outAddr.toNat 32 = digest :=
  memRead_writeBack _ _ h32

/-- The digest does not depend on the engine (R235). -/
theorem hashFinalize_fst_same (rounds : Nat) (h : HashRegs) (e e' : Engine) :
    (hashFinalize rounds (h, e)).1 = (hashFinalize rounds (h, e')).1 := rfl

theorem hashMessage_fst_same (rounds : Nat) (msg : List Byte) (e e' : Engine) :
    (hashMessage rounds msg e).1 = (hashMessage rounds msg e').1 := by
  rw [hashMessage_eq_refHash, hashMessage_eq_refHash]

/-! ### `HASH_UPDATE`, `HASH_FINAL` and `HASH` -/

/-- Settles O40: the registers hold the stream of the pending bytes and the input, and its zero tail is kept byte by byte. -/
theorem hashUpdateResult : Obligations.HashUpdateResult := by
  unfold Obligations.HashUpdateResult
  refine ⟨rfl, fun s => ⟨fun hopen hpos htail hfits => ?_, fun hclosed => ?_, fun hopen hfits => ?_⟩⟩
  · have hexec := exec_hashUpdate_of_fits hopen hfits
    have hstream := hashUpdate_holdsStream (hashRounds s.config) (dataIn s) (startHash s) hpos
    have hempty (h0 : s.ops.inLen = 0) : (hashUpdateRun s).1 = s.hash := by
      have hdata : dataIn s = [] := by rw [dataIn, h0]; rfl
      exact congrArg (fun data => (hashUpdate (hashRounds s.config) data (s.hash, startHash s)).1) hdata
    exact ⟨_, hexec, complete_endsWith 0 _, rfl, hopen, hstream.chain, hstream.rest, hstream.pos,
      hashUpdate_tailZero _ _ _ htail, hempty, rfl, commandsKeepHostRegisters _ _ _ hexec⟩
  · exact exists_seqErr ⟨rfl, hclosed⟩
  · exact exists_addrErr (by simp [hopen]) (by simp [decrypts]) ((regionsFit_hashUpdate_iff s).not.2 hfits)

/-- Settles O41: the padded block is compressed from the chaining value that the registers hold. -/
theorem hashFinalResult : Obligations.HashFinalResult := by
  unfold Obligations.HashFinalResult
  refine ⟨rfl, fun s => ⟨fun hopen hpos hfits => ?_, fun hclosed => ?_, fun hopen hfits => ?_⟩⟩
  · have hexec := exec_hashFinal_of_fits hopen hfits
    obtain ⟨hkept, -⟩ := commandsWriteOnlyOutput _ _ _ hexec
    refine ⟨_, hexec, complete_endsWith 32 _, rfl, rfl, rfl, ?_, hkept, commandsKeepHostRegisters _ _ _ hexec⟩
    rw [digestEnd_hashFinalize, memRead_digestState (length_hashFinalize _ _), hashFinalize_fst _ _ hpos]
    rfl
  · exact exists_seqErr ⟨rfl, hclosed⟩
  · exact exists_addrErr (by simp [hopen]) (by simp [decrypts]) ((regionsFit_hashFinal_iff s).not.2 hfits)

/-- Settles O42: `hash` of the input, from any engine; an open stream is not read. -/
theorem hashResult : Obligations.HashResult := by
  unfold Obligations.HashResult
  refine ⟨rfl, fun s e => ⟨fun hin hout => ?_, fun hfits => ?_⟩⟩
  · have hexec := exec_hash_of_fits hin hout
    obtain ⟨hkept, -⟩ := commandsWriteOnlyOutput _ _ _ hexec
    refine ⟨_, hexec, complete_endsWith 32 _, rfl, rfl, rfl, ?_, hkept, commandsKeepHostRegisters _ _ _ hexec⟩
    rw [hashMessage_fst_same _ _ e (startHash s)]
    exact memRead_digestState (length_hashFinalize _ _) s
  · exact exists_addrErr (by simp [needsStream]) (by simp [decrypts]) ((regionsFit_hash_iff s).not.2 hfits)

/-! ### `HASH` and the three commands of a stream (R101) -/

/-- The state after `HASH_INIT`. -/
def openedStream (s : State) : State := complete 0 { s with hash := HashRegs.zero, hashActive := true }

/-- The state after `HASH_INIT` and `HASH_UPDATE`. -/
def fedStream (s : State) : State := hashUpdateEnd (hashUpdateRun (openedStream s)) (openedStream s)

/-- The stream of one input finalizes to the hash of that input. -/
theorem hashFinalize_fedStream (s : State) :
    (hashFinalize (hashRounds s.config) ((fedStream s).hash, startHash (fedStream s))).1 =
      (hashMessage (hashRounds s.config) (dataIn s) (startHash s)).1 := by
  have hregs : (fedStream s).hash = (hashUpdate (hashRounds s.config) (dataIn s) (HashRegs.zero, startHash s)).1 :=
    hashUpdate_fst_same _ _ _ (startHash (openedStream s)) (startHash s)
  rw [hregs]
  exact hashFinalize_fst_same _ _ _ _

/-- Settles O43: both ways write the same digest, and `HASH_FINAL` overwrites all that the first two commands changed. -/
theorem hashEqualsStream : Obligations.HashEqualsStream := by
  unfold Obligations.HashEqualsStream
  intro s hin hout
  have hfinal : exec .hashFinal (fedStream s) = .next (digestState
      (hashFinalize (hashRounds s.config) ((fedStream s).hash, startHash (fedStream s))).1 s) :=
    exec_hashFinal_of_fits (s := fedStream s) rfl hout
  rw [hashFinalize_fedStream] at hfinal
  exact ⟨openedStream s, fedStream s, _, exec_hashInit s, exec_hashUpdate_of_fits (s := openedStream s) rfl hin, hfinal,
    exec_hash_of_fits hin hout⟩

/-! ### Two inputs in a row (R234) -/

theorem hashUpdate_append (rounds : Nat) (x y : List Byte) (p : HashRegs × Engine) :
    hashUpdate rounds (x ++ y) p = hashUpdate rounds y (hashUpdate rounds x p) := List.foldl_append

/-- What `HASH_UPDATE` on the `n` bytes at `a` leaves of the registers that a next `HASH_UPDATE` reads. -/
structure UpdatedWith (a n : Nat) (s t : State) : Prop where
  hash : ∀ e, t.hash = (hashUpdate (hashRounds s.config) (memRead s.mem a n) (s.hash, e)).1
  active : t.hashActive = true
  err : t.err = .none
  mem : t.mem = s.mem
  config : t.config = s.config

theorem exists_updatedWith {s : State} {a n : Nat} (hopen : s.hashActive = true) (ha : a < 2 ^ 32) (hn : n < 2 ^ 32)
    (hfits : Fits s a n) (o : Operands) :
    ∃ t, exec .hashUpdate { s with ops := { o with inAddr := BitVec.ofNat 32 a, inLen := BitVec.ofNat 32 n } } = .next t ∧
      UpdatedWith a n s t := by
  have haddr : (BitVec.ofNat 32 a).toNat = a := Nat.mod_eq_of_lt ha
  have hlen : (BitVec.ofNat 32 n).toNat = n := Nat.mod_eq_of_lt hn
  refine ⟨_, exec_hashUpdate_of_fits hopen (by rwa [haddr, hlen]), fun e => ?_, hopen, rfl, rfl, rfl⟩
  refine (hashUpdate_fst_same _ _ s.hash _ e).trans ?_
  simp only [snapshot, inRegion, haddr, hlen]

/-- Settles O44: the bytes of the two regions in a row are those of the whole, and the registers are fed byte by byte. -/
theorem hashUpdateSplits : Obligations.HashUpdateSplits := by
  unfold Obligations.HashUpdateSplits
  intro s a m n hopen ha hmn hfits
  have hfirst : Fits s a m := by unfold Fits at *; omega
  obtain ⟨t, htexec, ht⟩ := exists_updatedWith hopen (by omega) (by omega) hfirst s.ops
  have hsecond : Fits t (a + m) n := by unfold Fits at *; rw [ht.config]; omega
  obtain ⟨u, huexec, hu⟩ := exists_updatedWith ht.active ha (by omega) hsecond s.ops
  obtain ⟨v, hvexec, hv⟩ := exists_updatedWith hopen (by omega) hmn hfits s.ops
  have hregs : u.hash = v.hash := by
    have h1 := ht.hash (startHash s)
    have h2 := hu.hash (hashUpdate (hashRounds s.config) (memRead s.mem a m) (s.hash, startHash s)).2
    rw [h1, ht.mem, ht.config] at h2
    rw [h2, hv.hash (startHash s), memRead_add, hashUpdate_append]
  exact ⟨t, u, v, htexec, huexec, hvexec, hregs, ht.active, hu.active, hv.active, ht.err, hu.err, hv.err⟩

end Sys2Proof.HashCommands

/-! ## What a command does not read (10_state.md R21, R23; 30_encoding.md R96)

A command's checks and its output depend on the operand registers it reads, on MEM and on the hash registers. Its functions load the
key and start from the zero state, so what the datapath held before is not read either. -/

namespace Sys2Proof.CommandFrames

open Sys2Proof.Machine Sys2Proof.Claims Sys2Proof.ModeCommands Sys2Proof.AeadMode Sys2Proof.SivMode Sys2Proof.HashCommands
  Sys2Proof.SystemCommands Sys2Proof.Exceptions

/-! ### The datapath (R21, R23) -/

/-- A state whose datapath registers hold `d`. -/
abbrev withDatapath (d : Datapath) (s : State) : State := { s with dp := d }

/-- The end of an encrypting command holds the output, and nothing of the engine. -/
theorem encryptEnd_eq (r : List Byte × Engine) (s : State) :
    encryptEnd r s = complete (s.ops.inLen.toNat + 8) (writeBack s s.ops.outAddr.toNat r.1) := rfl

/-- The end of a decrypting command holds the result, and nothing of the engine. -/
theorem decryptEnd_congr {r r' : Decrypted × Engine} (h : r.1 = r'.1) (d : Datapath) (s : State) :
    decryptEnd r (withDatapath d s) = decryptEnd r' s := by
  unfold decryptEnd
  rw [h]
  cases r'.1 <;> rfl

theorem execEncrypting_withDatapath {f : EncryptFun}
    (hsame : ∀ rc key nonce ad x e e', (f rc key nonce ad x e).1 = (f rc key nonce ad x e').1) (ks : KeySize) (s : State)
    (d : Datapath) : execEncrypting f ks (withDatapath d s) = execEncrypting f ks s := by
  have hrun : (encryptRun f ks (withDatapath d s)).1 = (encryptRun f ks s).1 := by
    rw [encryptRun_eq, encryptRun_eq]
    exact hsame _ _ _ _ _ _ _
  rw [execEncrypting_eq, execEncrypting_eq, encryptEnd_eq, encryptEnd_eq, hrun]
  rfl

theorem execDecrypting_withDatapath {f : DecryptFun}
    (hsame : ∀ rc key nonce ad x e e', (f rc key nonce ad x e).1 = (f rc key nonce ad x e').1) (ks : KeySize) (s : State)
    (d : Datapath) : execDecrypting f ks (withDatapath d s) = execDecrypting f ks s := by
  have hrun : (decryptRun f ks (withDatapath d s)).1 = (decryptRun f ks s).1 := by
    rw [decryptRun_eq, decryptRun_eq]
    exact hsame _ _ _ _ _ _ _
  rw [execDecrypting_eq, execDecrypting_eq, decryptEnd_congr hrun]
  rfl

theorem hashUpdateEnd_withDatapath (d : Datapath) (s : State) :
    hashUpdateEnd (hashUpdateRun (withDatapath d s)) (withDatapath d s) = hashUpdateEnd (hashUpdateRun s) s := by
  have hrun : (hashUpdateRun (withDatapath d s)).1 = (hashUpdateRun s).1 := hashUpdate_fst_same _ _ _ _ _
  exact congrArg (fun h => complete 0 { s with hash := h }) hrun

theorem digestEnd_hashMessage_withDatapath (rounds : Nat) (msg : List Byte) (d : Datapath) (s : State) :
    digestEnd (hashMessage rounds msg (startHash (withDatapath d s))) (withDatapath d s) =
      digestEnd (hashMessage rounds msg (startHash s)) s :=
  congrArg (fun digest => digestState digest s) (hashMessage_fst_same rounds msg _ _)

/-- Settles O51: each mode function answers alike from any engine; the hash loads its key slot in every call, and `PERM` loads all it
reads. -/
theorem datapathResidueIgnored : Obligations.DatapathResidueIgnored := by
  unfold Obligations.DatapathResidueIgnored
  intro i s d
  cases i using instr_families with
  | nop | clean | hashInit | hashFinal => rfl
  | perm ks rounds => rw [exec_permOf, exec_permOf]; rfl
  | aeadEnc ks => rw [exec_aeadEncOf, exec_aeadEncOf, execEncrypting_withDatapath aeadEncrypt_fst_same]
  | aeadDec ks => rw [exec_aeadDecOf, exec_aeadDecOf, execDecrypting_withDatapath aeadDecrypt_fst_same]
  | sivEnc ks => rw [exec_sivEncOf, exec_sivEncOf, execEncrypting_withDatapath sivEncrypt_fst_same]
  | sivDec ks => rw [exec_sivDecOf, exec_sivDecOf, execDecrypting_withDatapath sivDecrypt_fst_same]
  | hashUpdate =>
    refine (execHashUpdate_eq (withDatapath d s)).trans (Eq.trans ?_ (execHashUpdate_eq s).symm)
    rw [hashUpdateEnd_withDatapath]
    rfl
  | hash =>
    refine (execHash_eq (withDatapath d s)).trans (Eq.trans ?_ (execHash_eq s).symm)
    rw [digestEnd_hashMessage_withDatapath]
    rfl

/-! ### The operand registers (R96) -/

/-- A state whose operand registers hold `o`. -/
abbrev withOperands (o : Operands) (s : State) : State := { s with ops := o }

theorem withOperands_ite {c : Prop} [Decidable c] (o : Operands) (s t : State) :
    withOperands o (if c then s else t) = if c then withOperands o s else withOperands o t := by
  split <;> rfl

/-- It is enough to compare the answer that the frame of a command gives without the unread operand registers with its answer. -/
theorem unreadIgnored_of_answers {i : Instr} {s t u : State} (hu : exec i (withOperands (readOperands i s.ops) s) = .next u)
    (hexec : exec i s = .next (withOperands s.ops u)) (h : exec i (withOperands (readOperands i s.ops) s) = .next t) :
    exec i s = .next (withOperands s.ops t) := by
  rw [hu] at h
  cases h
  exact hexec

/-- A mode command reads all seven operand registers. -/
theorem unreadIgnored_of_reads_all {i : Instr} {s t : State} (hreads : readOperands i s.ops = s.ops)
    (h : exec i (withOperands (readOperands i s.ops) s) = .next t) : exec i s = .next (withOperands s.ops t) := by
  rw [hreads] at h
  have hops : t.ops = s.ops := (commandsKeepHostRegisters _ _ _ h).ops
  rw [h, ← hops]

theorem execPerm_withOperands (ks : KeySize) (rounds : Nat) (s : State) :
    ∃ u, execPerm ks rounds (withOperands ⟨s.ops.keyAddr, 0, 0, 0, s.ops.inAddr, 0, s.ops.outAddr⟩ s) = .next u ∧
      execPerm ks rounds s = .next (withOperands s.ops u) := by
  refine ⟨_, execPerm_eq ks rounds _, ?_⟩
  rw [execPerm_eq, withOperands_ite]
  rfl

/-- A digest is written where `OUT_ADDR` says, and the other operand registers are not looked at. -/
theorem digestEnd_withOperands (p : List Byte × HashRegs × Engine) {o : Operands} {s : State} (hout : o.outAddr = s.ops.outAddr) :
    withOperands s.ops (digestEnd p (withOperands o s)) = digestEnd p s := by
  have hmem : memWrite s.mem o.outAddr.toNat p.1 = memWrite s.mem s.ops.outAddr.toNat p.1 := by rw [hout]
  exact congrArg (fun m => complete 32 { s with hash := p.2.1, hashActive := false, mem := m }) hmem

theorem readOperands_permOf (ks : KeySize) (rounds : Nat) (o : Operands) :
    readOperands (permOf ks rounds) o = ⟨o.keyAddr, 0, 0, 0, o.inAddr, 0, o.outAddr⟩ := by cases ks <;> rfl

/-- Settles O50: the checks and the end of each frame name only the operand registers that the command reads. -/
theorem unreadOperandsIgnored : Obligations.UnreadOperandsIgnored := by
  unfold Obligations.UnreadOperandsIgnored
  intro i s t h
  cases i using instr_families with
  | nop => exact unreadIgnored_of_answers (exec_nop _) (exec_nop s) h
  | clean => exact unreadIgnored_of_answers (exec_clean _) (exec_clean s) h
  | hashInit => exact unreadIgnored_of_answers (exec_hashInit _) (exec_hashInit s) h
  | perm ks rounds =>
    obtain ⟨u, hread, hall⟩ := execPerm_withOperands ks rounds s
    rw [← readOperands_permOf ks rounds, ← exec_permOf] at hread
    exact unreadIgnored_of_answers hread ((exec_permOf ks rounds s).trans hall) h
  | aeadEnc ks => exact unreadIgnored_of_reads_all (by cases ks <;> rfl) h
  | aeadDec ks => exact unreadIgnored_of_reads_all (by cases ks <;> rfl) h
  | sivEnc ks => exact unreadIgnored_of_reads_all (by cases ks <;> rfl) h
  | sivDec ks => exact unreadIgnored_of_reads_all (by cases ks <;> rfl) h
  | hashUpdate =>
    refine unreadIgnored_of_answers (execHashUpdate_eq _) ((execHashUpdate_eq s).trans ?_) h
    rw [withOperands_ite, withOperands_ite]
    rfl
  | hashFinal =>
    refine unreadIgnored_of_answers (execHashFinal_eq _) ((execHashFinal_eq s).trans ?_) h
    rw [withOperands_ite, withOperands_ite, digestEnd_withOperands (o := readOperands .hashFinal s.ops) _ rfl]
    rfl
  | hash =>
    refine unreadIgnored_of_answers (execHash_eq _) ((execHash_eq s).trans ?_) h
    rw [withOperands_ite, digestEnd_withOperands (o := readOperands .hash s.ops) _ rfl]
    rfl

end Sys2Proof.CommandFrames

/-! ## Words and their bytes (20_memory.md R62, R64; 43_siv.md R211) -/

namespace Sys2Proof.GroupCipher

open Sys2Proof.Machine Sys2Proof.Claims Sys2Proof.SpongeAbsorb Sys2Proof.HashStream Sys2Proof.AeadMode Sys2Proof.SivMode

/-- Storing a word loaded from inside a string gives back the four bytes there. -/
theorem bytes32_le32_eq_take_drop {b : List Byte} {o : Nat} (h : o + 4 ≤ b.length) : bytes32 (le32 b o) = (b.drop o).take 4 := by
  rw [bytes32_le32]
  apply List.ext_getElem
  · simp only [List.length_map, List.length_range, List.length_take, List.length_drop]
    omega
  · intro i hi _
    rw [List.length_map, List.length_range] at hi
    have hlt : o + i < b.length := by omega
    simp [byteAt, hlt]

theorem le32_bytes32 (w : Word) : le32 (bytes32 w) 0 = w := by
  rw [le32_eq_lepart]
  exact (lepart_lowbytes w le_rfl).trans BitVec.and_allOnes

/-- Settles O16. -/
theorem wordBytesRoundTrip : Obligations.WordBytesRoundTrip := by
  unfold Obligations.WordBytesRoundTrip
  exact ⟨fun b h4 => bytes32_le32_eq_take_drop (o := 0) (by omega), le32_bytes32⟩

/-- R211, for any nonce that has a first word. -/
theorem nonce2Bytes_sivRekey {nonce tag : List Byte} (hnonce : 4 ≤ nonce.length) (htag : tag.length = 8) (e : Engine) :
    nonce2Bytes (sivRekey nonce tag e) = nonce.take 4 ++ tag := by
  have hword : bytes32 (le32 nonce 0) = nonce.take 4 := bytes32_le32_eq_take_drop (o := 0) (by omega)
  have hlow : bytes32 (le32 tag 0) = tag.take 4 := bytes32_le32_eq_take_drop (o := 0) (by omega)
  have hhigh : bytes32 (le32 tag 4) = tag.drop 4 := by
    rw [bytes32_le32_eq_take_drop (by omega), List.take_of_length_le (by rw [List.length_drop]; omega)]
  rw [nonce2Bytes, sivRekey_n2, hword, hlow, hhigh, List.append_assoc, List.take_append_drop]

/-- Settles O28. -/
theorem sivDerivedNonce : Obligations.SivDerivedNonce := by
  unfold Obligations.SivDerivedNonce
  exact fun nonce tag e hnonce htag => nonce2Bytes_sivRekey (by omega) htag e

/-! ## Tampering and nonce reuse (42_aead.md section 4), the keystream pass (43_siv.md R212) -/

/-- R183: an input of ciphertext and tag releases a plaintext exactly when the tag is that of the decrypted message. -/
theorem aeadDecrypt_eq_plaintext_iff (rc : RoundCounts) (key nonce ad ct : List Byte) {tag : List Byte} (pt : List Byte) (e : Engine)
    (h8 : tag.length = 8) :
    (aeadDecrypt rc key nonce ad (ct ++ tag) e).1 = .plaintext pt ↔
      aeadTag rc (decryptGroups rc ct (aeadStart rc key nonce ad e)).2 = tag ∧
        (decryptGroups rc ct (aeadStart rc key nonce ad e)).1 = pt := by
  rw [aeadDecrypt_append rc key nonce ad ct e h8]
  dsimp only
  split
  next h => simp [(tagEqual_iff _ _).1 h]
  next h => simp [mt (tagEqual_iff _ _).2 h]

/-- Settles O25: the tag that a ciphertext is checked against does not depend on the tag supplied. -/
theorem aeadTagTamperFails : Obligations.AeadTagTamperFails := by
  unfold Obligations.AeadTagTamperFails
  intro rc key nonce ad ct tag tag' pt e h8 h8' hne hpt
  obtain ⟨htag, -⟩ := (aeadDecrypt_eq_plaintext_iff rc key nonce ad ct pt e h8).1 hpt
  have hdiffer : ¬tagEqual tag tag' = true := fun h => hne ((tagEqual_iff _ _).1 h).symm
  rw [aeadDecrypt_append rc key nonce ad ct e h8']
  dsimp only
  rw [htag, if_neg hdiffer]

/-- A message that starts with whole groups is enciphered in two parts. -/
theorem encryptGroups_append (rc : RoundCounts) {p : List Byte} (x : List Byte) (e : Engine) (hwhole : p.length % 4 = 0) :
    encryptGroups rc (p ++ x) e = ((encryptGroups rc p e).1 ++ (encryptGroups rc x (encryptGroups rc p e).2).1,
      (encryptGroups rc x (encryptGroups rc p e).2).2) := by
  induction p using groups_induction generalizing e with
  | nil => rfl
  | group g rest h4 ih =>
    rw [List.length_append, h4, Nat.add_mod_left] at hwhole
    rw [List.append_assoc, encryptGroups_group rc _ e h4, encryptGroups_group rc rest e h4, ih _ hwhole]
    simp only [List.append_assoc]
  | tail g h0 h4 =>
    rw [Nat.mod_eq_of_lt h4] at hwhole
    exact absurd (List.eq_nil_of_length_eq_zero hwhole) h0

theorem take_cryptGroup (k : Word) (g : List Byte) (n : Nat) : (cryptGroup k g).take n = cryptGroup k (g.take n) := by
  apply List.ext_getElem
  · simp only [cryptGroup, xorBytes, List.length_take, List.length_zipWith]
    omega
  · simp [cryptGroup, xorBytes]

/-- The first bytes of a ciphertext are those of the plaintext under the keystream word of the first group. -/
theorem take_encryptGroups (rc : RoundCounts) {x : List Byte} (e : Engine) {n : Nat} (h4 : n ≤ 4) (hx : n ≤ x.length) :
    (encryptGroups rc x e).1.take n = cryptGroup (msgKeystream rc e) (x.take n) := by
  cases x using groups_induction with
  | nil =>
    obtain rfl : n = 0 := Nat.le_zero.1 hx
    rfl
  | group g rest hg =>
    have hcrypt : n ≤ (cryptGroup (msgKeystream rc e) g).length := h4.trans ((length_cryptGroup _ hg.le).trans hg).ge
    rw [encryptGroups_group rc rest e hg, List.take_append_of_le_length hcrypt, List.take_append_of_le_length (h4.trans hg.ge),
      take_cryptGroup]
  | tail g h0 hg => rw [encryptGroups_tail rc e h0 hg, take_cryptGroup]

theorem xor_xor_xor_cancel_right (a b k : Byte) : a ^^^ k ^^^ (b ^^^ k) = a ^^^ b := by
  rw [BitVec.xor_comm b, BitVec.xor_assoc, ← BitVec.xor_assoc k, BitVec.xor_self, BitVec.zero_xor]

/-- Two groups under one keystream word differ as their plaintexts do. -/
theorem xorBytes_cryptGroup_cryptGroup (k : Word) {g g' : List Byte} (h4 : g.length ≤ 4) :
    xorBytes (cryptGroup k g) (cryptGroup k g') = xorBytes g g' := by
  have hword : (bytes32 k).length = 4 := rfl
  apply List.ext_getElem
  · simp only [cryptGroup, xorBytes, List.length_zipWith, hword]
    omega
  · intro i _ _
    simp only [cryptGroup, xorBytes, List.getElem_zipWith, xor_xor_xor_cancel_right]

/-- The first `n ≤ 4` bytes of the ciphertext behind whole groups `p` (R180, R192). -/
theorem take_drop_aeadEncrypt (rc : RoundCounts) (key nonce ad : List Byte) {p x : List Byte} (e : Engine) (hwhole : p.length % 4 = 0)
    {n : Nat} (h4 : n ≤ 4) (hx : n ≤ x.length) :
    (((aeadEncrypt rc key nonce ad (p ++ x) e).1.drop p.length).take n) =
      cryptGroup (msgKeystream rc (encryptGroups rc p (aeadStart rc key nonce ad e)).2) (x.take n) := by
  rw [aeadEncrypt_fst, encryptGroups_append rc x _ hwhole, List.append_assoc,
    List.drop_left' (length_encryptGroups rc p _), List.take_append_of_le_length (by rwa [length_encryptGroups]),
    take_encryptGroups rc _ h4 hx]

theorem take_aeadEncrypt (rc : RoundCounts) (key nonce ad : List Byte) {p : List Byte} (x : List Byte) (e : Engine)
    (hwhole : p.length % 4 = 0) :
    (aeadEncrypt rc key nonce ad (p ++ x) e).1.take p.length = (encryptGroups rc p (aeadStart rc key nonce ad e)).1 := by
  rw [aeadEncrypt_fst, encryptGroups_append rc x _ hwhole, List.append_assoc, List.take_left' (length_encryptGroups rc p _)]

/-- Settles O26: behind the same whole groups both messages meet the same keystream word. -/
theorem nonceReuseLeaksXor : Obligations.NonceReuseLeaksXor := by
  unfold Obligations.NonceReuseLeaksXor
  intro rc key nonce ad p x y e hwhole
  refine ⟨?_, fun n h4 hx hy => ?_⟩
  · rw [take_aeadEncrypt rc key nonce ad x e hwhole, take_aeadEncrypt rc key nonce ad y e hwhole]
  · rw [take_drop_aeadEncrypt rc key nonce ad e hwhole h4 hx, take_drop_aeadEncrypt rc key nonce ad e hwhole h4 hy,
      xorBytes_cryptGroup_cryptGroup _ ((List.length_take_le n x).trans h4)]

/-- Settles O27: `sivStream` runs its keystream from an engine that does not depend on the data. -/
theorem sivStreamIsInvolution : Obligations.SivStreamIsInvolution := by
  unfold Obligations.SivStreamIsInvolution
  exact fun rc x e => streamGroups_streamGroups rc x _

end Sys2Proof.GroupCipher


/-! ## Passes over the groups of a string (41_sponge.md R155, 42_aead.md R180, 43_siv.md R212)

The model's passes recur over the bytes, four at a time. Each is the loop over the group indices that the rules' pseudocode and the
reference write, with one step for full and partial groups alike. -/

namespace Sys2Proof.GroupPasses

open Sys2Proof.Machine Sys2Proof.Claims Sys2Proof.SpongeAbsorb Sys2Proof.GroupCipher Sys2Proof.AeadMode

/-! ### The loop over the groups -/

section Loop

variable {α β : Type}

/-- `next` for each group of `data`, in the order of their indices. -/
def overGroups (next : List Byte → α → α) (data : List Byte) (a : α) : α :=
  (List.range (groupCount data.length)).foldl (fun a i => next (refGroup data i) a) a

theorem groupCount_append {g : List Byte} (h4 : g.length = 4) (rest : List Byte) :
    groupCount (g ++ rest).length = groupCount rest.length + 1 := by
  rw [List.length_append, h4, groupCount, groupCount]
  omega

theorem groupCount_tail {g : List Byte} (h0 : g ≠ []) (h4 : g.length < 4) : groupCount g.length = 1 := by
  have hpos := List.length_pos_iff.2 h0
  rw [groupCount]
  omega

theorem refGroup_append_succ {g : List Byte} (h4 : g.length = 4) (rest : List Byte) (i : Nat) :
    refGroup (g ++ rest) (i + 1) = refGroup rest i := by
  rw [refGroup, Nat.mul_succ, Nat.add_comm, ← h4, List.drop_length_add_append, h4, refGroup]

theorem length_refGroup_le (data : List Byte) (i : Nat) : (refGroup data i).length ≤ 4 := List.length_take_le 4 _

theorem overGroups_group (next : List Byte → α → α) {g : List Byte} (rest : List Byte) (a : α) (h4 : g.length = 4) :
    overGroups next (g ++ rest) a = overGroups next rest (next g a) := by
  have hfirst : refGroup (g ++ rest) 0 = g := List.take_left' h4
  rw [overGroups, groupCount_append h4, List.range_succ_eq_map, List.foldl_cons, List.foldl_map, hfirst]
  simp only [Nat.succ_eq_add_one, refGroup_append_succ h4, overGroups]

theorem overGroups_tail (next : List Byte → α → α) {g : List Byte} (a : α) (h0 : g ≠ []) (h4 : g.length < 4) :
    overGroups next g a = next g a := by
  have hfirst : refGroup g 0 = g := List.take_of_length_le h4.le
  rw [overGroups, groupCount_tail h0 h4, List.range_one, List.foldl_cons, List.foldl_nil, hfirst]

/-- A recursion over the bytes that takes a full group at a time, then a partial one, is the loop. -/
theorem eq_overGroups {pass : List Byte → α → α} {next : List Byte → α → α} (hnil : ∀ a, pass [] a = a)
    (hgroup : ∀ g rest a, g.length = 4 → pass (g ++ rest) a = pass rest (next g a))
    (htail : ∀ g a, g ≠ [] → g.length < 4 → pass g a = next g a) (data : List Byte) (a : α) :
    pass data a = overGroups next data a := by
  induction data using groups_induction generalizing a with
  | nil => exact hnil a
  | group g rest h4 ih => rw [hgroup g rest a h4, ih, overGroups_group next rest a h4]
  | tail g h0 h4 => rw [htail g a h0 h4, overGroups_tail next a h0 h4]

/-- Two loops whose steps keep a relation keep it. -/
theorem overGroups_rel {R : α → β → Prop} {next : List Byte → α → α} {next' : List Byte → β → β} (data : List Byte) {a : α} {b : β}
    (hnext : ∀ g a b, g.length ≤ 4 → R a b → R (next g a) (next' g b)) (h : R a b) :
    R (overGroups next data a) (overGroups next' data b) := by
  unfold overGroups
  induction groupCount data.length with
  | zero => exact h
  | succ n ih =>
    rw [List.range_succ, List.foldl_concat, List.foldl_concat]
    exact hnext _ _ _ (length_refGroup_le data n) ih

end Loop

/-! ### The passes of the model -/

/-- One group absorbed, full or partial: domain, permutation, word, separator (R155, R156). -/
def afterGroup (d : Byte) (rounds : Nat) (g : List Byte) (e : Engine) : Engine :=
  addDomain (secondaryDomain (g.length % 4)) (absorbWord (lepart g 0 g.length) (runPermute rounds (addDomain d e)))

theorem absorb_eq_overGroups (d : Byte) (rounds : Nat) (data : List Byte) (e : Engine) :
    absorb d rounds data e = overGroups (afterGroup d rounds) data e := by
  refine eq_overGroups (absorb_nil d rounds) (fun g rest e h4 => ?_) (fun g e h0 h4 => ?_) data e
  · have hnext : afterGroup d rounds g e = absorbWord (le32 g 0) (runPermute rounds (addDomain d e)) := by
      rw [afterGroup, h4, ← le32_eq_lepart]
      exact addDomain_zero _
    rw [hnext]
    match g, h4 with
    | [b0, b1, b2, b3], _ => exact absorb_group d rounds b0 b1 b2 b3 rest e
  · rw [absorb_tail d rounds g e h0 h4, afterGroup, Nat.mod_eq_of_lt h4]
    rfl

/-- One message group (R181, R182): the ciphertext so far and the engine. -/
def encryptStep (rc : RoundCounts) (g : List Byte) (p : List Byte × Engine) : List Byte × Engine :=
  (p.1 ++ cryptGroup (msgKeystream rc p.2) g, afterMsgGroup rc g p.2)

theorem encryptGroups_eq_overGroups (rc : RoundCounts) (pt : List Byte) (e : Engine) :
    encryptGroups rc pt e = overGroups (encryptStep rc) pt ([], e) := by
  refine eq_overGroups (pass := fun pt p => (p.1 ++ (encryptGroups rc pt p.2).1, (encryptGroups rc pt p.2).2))
    (fun p => ?_) (fun g rest p h4 => ?_) (fun g p h0 h4 => ?_) pt ([], e)
  · simp only [encryptGroups, List.append_nil]
  · simp only [encryptGroups_group rc rest p.2 h4, encryptStep, List.append_assoc]
  · simp only [encryptGroups_tail rc p.2 h0 h4, encryptStep]

/-- One group under the keystream of SIV (R212): the output so far and the engine. -/
def streamStep (rc : RoundCounts) (g : List Byte) (p : List Byte × Engine) : List Byte × Engine :=
  (p.1 ++ cryptGroup (squeezeWord (nextSivBlock rc p.2)) g, nextSivBlock rc p.2)

theorem streamGroups_eq_overGroups (rc : RoundCounts) (data : List Byte) (e : Engine) :
    streamGroups rc data e = overGroups (streamStep rc) data ([], e) := by
  refine eq_overGroups (pass := fun data p => (p.1 ++ (streamGroups rc data p.2).1, (streamGroups rc data p.2).2))
    (fun p => ?_) (fun g rest p h4 => ?_) (fun g p h0 h4 => ?_) data ([], e)
  · simp only [streamGroups, List.append_nil]
  · simp only [streamGroups_group rc rest p.2 h4, streamStep, List.append_assoc]
  · simp only [streamGroups_tail rc p.2 h0 h4, streamStep]

end Sys2Proof.GroupPasses

/-! ## The work measure and the phases (70_reset_and_hazards.md R354, 10_state.md R41 and R42)

The engine counts its rounds and records its phases; both only grow. So each operation is described once, by the rounds it adds and the
phases it enters, and the descriptions compose. -/

namespace Sys2Proof.Ghosts

open Sys2Proof.Machine Sys2Proof.Claims Sys2Proof.GroupCipher Sys2Proof.AeadMode Sys2Proof.HashStream Sys2Proof.GroupPasses

/-- From `e` to `e'` the engine performed `rounds` rounds and entered `phases`. -/
structure Performed (rounds : Nat) (phases : List Phase) (e e' : Engine) : Prop where
  work : e'.work = e.work + rounds
  trail : e'.trail = e.trail ++ phases

theorem Performed.trans {m n : Nat} {ps qs : List Phase} {a b c : Engine} (h : Performed m ps a b) (h' : Performed n qs b c) :
    Performed (m + n) (ps ++ qs) a c :=
  ⟨by rw [h'.work, h.work, Nat.add_assoc], by rw [h'.trail, h.trail, List.append_assoc]⟩

theorem Performed.of_eq {m n : Nat} {ps : List Phase} {a b : Engine} (h : Performed m ps a b) (hmn : m = n) : Performed n ps a b :=
  hmn ▸ h

/-- An operation that stays in its phase. -/
theorem performed_in_phase {n : Nat} {e e' : Engine} (hwork : e'.work = e.work + n) (htrail : e'.trail = e.trail) :
    Performed n [] e e' := ⟨hwork, by rw [htrail, List.append_nil]⟩

/-! ### The parts of the mode functions -/

theorem performed_enterPhase (p : Phase) (e : Engine) : Performed 0 [p] e (enterPhase p e) := ⟨rfl, rfl⟩

theorem performed_loadKey (key : List Byte) (e : Engine) : Performed 0 [] e (loadKey key e) := performed_in_phase rfl rfl

theorem performed_sivRekey (nonce tag : List Byte) (e : Engine) : Performed 0 [.rekey] e (sivRekey nonce tag e) := ⟨rfl, rfl⟩

theorem performed_setup (rc : RoundCounts) (nonce : List Byte) (d : Byte) (e : Engine) :
    Performed (setupWork rc) [] e (setup rc nonce d e) := by
  refine performed_in_phase ?_ rfl
  have hwork : (setup rc nonce d e).work = e.work + rc.init + rc.nonce + rc.nonce + rc.nonce := rfl
  rw [hwork, setupWork]
  omega

theorem performed_generateTag (rc : RoundCounts) (e : Engine) : Performed (rc.tag1 + rc.tag2) [] e (generateTag rc e) :=
  performed_in_phase (Nat.add_assoc e.work rc.tag1 rc.tag2) rfl

/-- A loop whose step performs `rounds` rounds performs them as often as there are groups. -/
theorem performed_overGroups {α : Type} {next : List Byte → α → α} {rounds : Nat} (engine : α → Engine)
    (hnext : ∀ g a, Performed rounds [] (engine a) (engine (next g a))) (data : List Byte) (a : α) :
    Performed (groupCount data.length * rounds) [] (engine a) (engine (overGroups next data a)) := by
  unfold overGroups
  induction groupCount data.length with
  | zero => exact performed_in_phase (by simp) rfl
  | succ n ih =>
    rw [List.range_succ, List.foldl_concat, Nat.succ_mul]
    exact ih.trans (hnext _ _)

theorem performed_afterGroup (d : Byte) (rounds : Nat) (g : List Byte) (e : Engine) :
    Performed rounds [] e (afterGroup d rounds g e) := performed_in_phase rfl rfl

theorem performed_afterMsgGroup (rc : RoundCounts) (g : List Byte) (e : Engine) :
    Performed rc.msg [] e (afterMsgGroup rc g e) := performed_in_phase rfl rfl

theorem performed_nextSivBlock (rc : RoundCounts) (e : Engine) : Performed rc.sivKs [] e (nextSivBlock rc e) :=
  performed_in_phase rfl rfl

theorem performed_absorb (d : Byte) (rounds : Nat) (data : List Byte) (e : Engine) :
    Performed (groupCount data.length * rounds) [] e (absorb d rounds data e) := by
  rw [absorb_eq_overGroups]
  exact performed_overGroups id (performed_afterGroup d rounds) data e

theorem performed_encryptGroups (rc : RoundCounts) (pt : List Byte) (e : Engine) :
    Performed (groupCount pt.length * rc.msg) [] e (encryptGroups rc pt e).2 := by
  rw [encryptGroups_eq_overGroups]
  exact performed_overGroups Prod.snd (fun g p => performed_afterMsgGroup rc g p.2) pt ([], e)

theorem performed_streamGroups (rc : RoundCounts) (data : List Byte) (e : Engine) :
    Performed (groupCount data.length * rc.sivKs) [] e (streamGroups rc data e).2 := by
  rw [streamGroups_eq_overGroups]
  exact performed_overGroups Prod.snd (fun _ p => performed_nextSivBlock rc p.2) data ([], e)

/-- A decryption does what the encryption that it undoes does. -/
theorem performed_decryptGroups (rc : RoundCounts) (ct : List Byte) (e : Engine) :
    Performed (groupCount ct.length * rc.msg) [] e (decryptGroups rc ct e).2 := by
  have hback := encryptGroups_decryptGroups rc ct e
  have hlen := length_encryptGroups rc (decryptGroups rc ct e).1 e
  have hwork := performed_encryptGroups rc (decryptGroups rc ct e).1 e
  rw [hback] at hlen hwork
  rwa [← hlen] at hwork

/-! ### AEAD -/

theorem performed_aeadStart (rc : RoundCounts) (key nonce ad : List Byte) (e : Engine) :
    Performed (setupWork rc + groupCount ad.length * rc.ad) [.init, .absorbAd, .process] e (aeadStart rc key nonce ad e) :=
  ((performed_enterPhase .init e).trans <| (performed_loadKey key _).trans <| (performed_setup rc nonce domNonce _).trans <|
    (performed_enterPhase .absorbAd _).trans <| (performed_absorb domAd rc.ad ad _).trans <|
    performed_enterPhase .process _).of_eq (by omega)

/-- What follows the message in both functions. -/
theorem performed_finalize (rc : RoundCounts) (e : Engine) :
    Performed (rc.tag1 + rc.tag2) [.finalize] e (generateTag rc (enterPhase .finalize e)) :=
  ((performed_enterPhase .finalize e).trans (performed_generateTag rc _)).of_eq (Nat.zero_add _)

theorem performed_aeadEncrypt (rc : RoundCounts) (key nonce ad pt : List Byte) (e : Engine) :
    Performed (aeadWork rc ad.length pt.length) [.init, .absorbAd, .process, .finalize] e (aeadEncrypt rc key nonce ad pt e).2 :=
  ((performed_aeadStart rc key nonce ad e).trans <| (performed_encryptGroups rc pt _).trans <| performed_finalize rc _).of_eq
    (by rw [aeadWork]; omega)

theorem aeadDecrypt_snd (rc : RoundCounts) (key nonce ad : List Byte) {x : List Byte} (e : Engine) (h8 : 8 ≤ x.length) :
    (aeadDecrypt rc key nonce ad x e).2 =
      generateTag rc (enterPhase .finalize (decryptGroups rc (x.take (x.length - 8)) (aeadStart rc key nonce ad e)).2) := by
  rw [aeadDecrypt, if_neg (not_lt.2 h8)]

theorem length_take_sub_eight (x : List Byte) : (x.take (x.length - 8)).length = x.length - 8 := by
  rw [List.length_take]
  omega

theorem performed_aeadDecrypt (rc : RoundCounts) (key nonce ad : List Byte) {x : List Byte} (e : Engine) (h8 : 8 ≤ x.length) :
    Performed (aeadWork rc ad.length (x.length - 8)) [.init, .absorbAd, .process, .finalize] e
      (aeadDecrypt rc key nonce ad x e).2 := by
  rw [aeadDecrypt_snd rc key nonce ad e h8]
  exact ((performed_aeadStart rc key nonce ad e).trans <| (performed_decryptGroups rc _ _).trans <| performed_finalize rc _).of_eq
    (by rw [aeadWork, length_take_sub_eight]; omega)

/-! ### SIV -/

theorem performed_sivAuth (rc : RoundCounts) (nonce ad pt : List Byte) (e : Engine) :
    Performed (setupWork rc + groupCount ad.length * rc.ad + groupCount pt.length * rc.sivAuth + (rc.tag1 + rc.tag2))
      [.authPass, .tag] e (sivAuth rc nonce ad pt e) :=
  ((performed_enterPhase .authPass e).trans <| (performed_setup rc nonce domSivAuth _).trans <|
    (performed_absorb domAd rc.ad ad _).trans <| (performed_absorb domMsg rc.sivAuth pt _).trans <|
    (performed_enterPhase .tag _).trans <| performed_generateTag rc _).of_eq (by omega)

theorem performed_sivStream (rc : RoundCounts) (nonce tag data : List Byte) (e : Engine) :
    Performed (setupWork rc + groupCount data.length * rc.sivKs) [.rekey, .streamPass] e
      (sivStream rc data (sivRekey nonce tag e)).2 :=
  ((performed_sivRekey nonce tag e).trans <| (performed_setup rc _ domSivStream _).trans <|
    (performed_enterPhase .streamPass _).trans <| performed_streamGroups rc data _).of_eq (by omega)

theorem performed_sivEncrypt (rc : RoundCounts) (key nonce ad pt : List Byte) (e : Engine) :
    Performed (sivWork rc ad.length pt.length) [.authPass, .tag, .rekey, .streamPass] e (sivEncrypt rc key nonce ad pt e).2 :=
  ((performed_loadKey key e).trans <| (performed_sivAuth rc nonce ad pt _).trans <| performed_sivStream rc nonce _ pt _).of_eq
    (by rw [sivWork, Nat.mul_add]; omega)

theorem sivDecrypt_snd (rc : RoundCounts) (key nonce ad : List Byte) {x : List Byte} (e : Engine) (h8 : 8 ≤ x.length) :
    (sivDecrypt rc key nonce ad x e).2 =
      let p := sivStream rc (x.take (x.length - 8)) (sivRekey nonce (x.drop (x.length - 8)) (loadKey key e))
      sivAuth rc nonce ad p.1 p.2 := by
  rw [sivDecrypt, if_neg (not_lt.2 h8)]

theorem performed_sivDecrypt (rc : RoundCounts) (key nonce ad : List Byte) {x : List Byte} (e : Engine) (h8 : 8 ≤ x.length) :
    Performed (sivWork rc ad.length (x.length - 8)) [.rekey, .streamPass, .authPass, .tag] e (sivDecrypt rc key nonce ad x e).2 := by
  rw [sivDecrypt_snd rc key nonce ad e h8]
  exact ((performed_loadKey key e).trans <| (performed_sivStream rc nonce _ _ _).trans <| performed_sivAuth rc nonce ad _ _).of_eq
    (by rw [sivWork, length_sivStream, length_take_sub_eight, Nat.mul_add]; omega)

/-- Settles O29, by the rounds that each function's parts add. -/
theorem modeWorkMeasure : Obligations.ModeWorkMeasure := by
  unfold Obligations.ModeWorkMeasure
  intro rc key nonce ad x e
  exact ⟨(performed_aeadEncrypt rc key nonce ad x e).work, (performed_sivEncrypt rc key nonce ad x e).work,
    fun h8 => (performed_aeadDecrypt rc key nonce ad e h8).work, fun h8 => (performed_sivDecrypt rc key nonce ad e h8).work⟩

/-- Settles O31, by the phases that each function's parts enter, behind the `CHECK` that every engine starts with. -/
theorem modePhaseTrails : Obligations.ModePhaseTrails := by
  unfold Obligations.ModePhaseTrails
  intro rc key nonce ad x s
  exact ⟨(performed_aeadEncrypt rc key nonce ad x _).trail, (performed_sivEncrypt rc key nonce ad x _).trail,
    fun h8 => (performed_aeadDecrypt rc key nonce ad _ h8).trail, fun h8 => (performed_sivDecrypt rc key nonce ad _ h8).trail⟩

/-! ### The hash -/

/-- R232: two block-cipher calls. -/
theorem compress_work (rounds : Nat) (block : List Byte) (dom : Byte) (h : HashRegs) (e : Engine) :
    (compress rounds block dom h e).2.work = e.work + 2 * rounds := by
  have hwork : (compress rounds block dom h e).2.work = e.work + rounds + rounds := rfl
  rw [hwork]
  omega

theorem hashByte_work_of_lt (rounds : Nat) {h : HashRegs} (e : Engine) (b : Byte) (hlt : h.hpos < 15) :
    (hashByte rounds (h, e) b).2.work = e.work := by
  have hopen : ¬h.hpos + 1 = 16 := by omega
  rw [hashByte, if_neg hopen]

theorem hashByte_work_of_eq (rounds : Nat) {h : HashRegs} (e : Engine) (b : Byte) (hlast : h.hpos = 15) :
    (hashByte rounds (h, e) b).2.work = e.work + 2 * rounds := by
  rw [hashByte, if_pos (by simp [hlast])]
  exact compress_work rounds _ 0 _ e

/-- A block is compressed each time the position wraps. -/
theorem hashUpdate_work (rounds : Nat) (data : List Byte) {h : HashRegs} (e : Engine) (hpos : h.hpos ≤ 15) :
    (hashUpdate rounds data (h, e)).2.work = e.work + hashUpdateWork rounds h.hpos data.length := by
  unfold hashUpdateWork
  induction data generalizing h e with
  | nil =>
    have hnone : (h.hpos + 0) / 16 = 0 := by omega
    rw [List.length_nil, hnone]
    rfl
  | cons b data ih =>
    have hnext : (hashUpdate rounds (b :: data) (h, e)) = hashUpdate rounds data (hashByte rounds (h, e) b) := rfl
    obtain hlt | hlast := Nat.lt_or_eq_of_le hpos
    · obtain ⟨-, -, hpos'⟩ := hashByte_of_lt rounds e b hlt
      have hcount : h.hpos + 1 + data.length = h.hpos + (b :: data).length := by rw [List.length_cons]; omega
      rw [hnext, ih _ (by omega), hashByte_work_of_lt rounds e b hlt, hpos', hcount]
    · obtain ⟨-, -, hpos'⟩ := hashByte_of_eq rounds e b hlast
      have hcount : (h.hpos + (b :: data).length) / 16 = (0 + data.length) / 16 + 1 := by rw [List.length_cons]; omega
      rw [hnext, ih _ (by omega), hashByte_work_of_eq rounds e b hlast, hpos', hcount, Nat.mul_succ]
      omega

theorem hashFinalize_work (rounds : Nat) (p : HashRegs × Engine) :
    (hashFinalize rounds p).2.2.work = p.2.work + hashFinalWork rounds := compress_work rounds _ 2 p.1 p.2

/-- Settles O30: `HASH_UPDATE` by the blocks it completes; `HASH` completes those of its input and the padded one. -/
theorem hashWorkMeasure : Obligations.HashWorkMeasure := by
  unfold Obligations.HashWorkMeasure
  intro rounds data h e hpos
  refine ⟨hashUpdate_work rounds data e hpos, hashFinalize_work rounds (h, e), ?_⟩
  have hupdate : (hashUpdate rounds data (HashRegs.zero, e)).2.work = e.work + 2 * rounds * ((0 + data.length) / 16) :=
    hashUpdate_work rounds data e (Nat.zero_le 15)
  rw [hashMessage, hashFinalize_work, hupdate, hashFinalWork, hashWork, Nat.zero_add, Nat.mul_succ, Nat.add_assoc]

end Sys2Proof.Ghosts

/-! ## The modes and the bit-serial reference (40_permutation.md R122, R123; 42_aead.md R180; 43_siv.md R213)

The engine and the reference hold the same 128-bit register under the same key string. Each operation on the engine is the reference's on
the register, so the passes, which are the same loops over the groups, stay together. -/

namespace Sys2Proof.BitSerial

open Sys2Proof.Machine Sys2Proof.Claims Sys2Proof.Permutation Sys2Proof.SpongeAbsorb Sys2Proof.GroupCipher Sys2Proof.AeadMode
  Sys2Proof.SivMode Sys2Proof.HashStream Sys2Proof.GroupPasses

/-! ### Groups and words -/

theorem byteAt_of_length_le {b : List Byte} {i : Nat} (h : b.length ≤ i) : byteAt b i = 0 := List.getD_eq_default _ _ h

/-- A group read as a little-endian number is the word of R63. -/
theorem refWord_eq_lepart {g : List Byte} (h4 : g.length ≤ 4) : refWord g = lepart g 0 g.length := by
  have hnumber : refWord g = BitVec.ofNat 32 (leNumber g) := rfl
  apply BitVec.eq_of_getLsbD_eq
  intro i hi
  rw [hnumber, BitVec.getLsbD_ofNat, testBit_leNumber, getLsbD_lepart g 0 i h4, Nat.zero_add]
  by_cases hlt : i < 8 * g.length
  · simp [hi, hlt]
  · rw [byteAt_of_length_le (by omega)]
    simp [hlt]

theorem refSeparator_eq {g : List Byte} (h4 : g.length ≤ 4) : refSeparator g = secondaryDomain (g.length % 4) := by
  unfold refSeparator
  split
  next hfull => rw [hfull]; rfl
  next hpart =>
    have hlt : g.length < 4 := by omega
    rw [Nat.mod_eq_of_lt hlt]
    rfl

theorem refCipher_eq_cryptGroup {g : List Byte} (k : Word) (h4 : g.length ≤ 4) : refCipher g k = cryptGroup k g := by
  rw [refCipher, refWord_eq_lepart h4]
  exact lowbytes_lepart_xor k h4

/-- A whole group of a string, as a word. -/
theorem refWord_refGroup {b : List Byte} {i : Nat} (h : 4 * i + 4 ≤ b.length) : refWord (refGroup b i) = le32 b (4 * i) := by
  have hbytes : bytes32 (le32 b (4 * i)) = refGroup b i := bytes32_le32_eq_take_drop h
  have h4 : (bytes32 (le32 b (4 * i))).length = 4 := rfl
  rw [← hbytes, refWord_eq_lepart h4.le, h4, ← le32_eq_lepart, le32_bytes32]

/-! ### The passes of the reference -/

/-- One group absorbed by the reference (R155, R156). -/
def refAbsorbStep (key : List Byte) (d : Byte) (rounds : Nat) (g : List Byte) (b : BitVec 128) : BitVec 128 :=
  refDomain (refSeparator g) (refAbsorb (refWord g) (refPermute key rounds (refDomain d b)))

theorem refAbsorbData_eq_overGroups (key : List Byte) (d : Byte) (rounds : Nat) (data : List Byte) (b : BitVec 128) :
    refAbsorbData key d rounds data b = overGroups (refAbsorbStep key d rounds) data b := rfl

/-- One message group of the reference. -/
def refMessageStep (rc : RoundCounts) (key g : List Byte) (q : List Byte × BitVec 128) : List Byte × BitVec 128 :=
  (q.1 ++ refCipher g (refSqueeze (refPermute key rc.msg (refDomain 0x50 q.2))), refAbsorbStep key 0x50 rc.msg g q.2)

theorem refMessage_eq_overGroups (rc : RoundCounts) (key pt : List Byte) (b : BitVec 128) :
    refMessage rc key pt b = overGroups (refMessageStep rc key) pt ([], b) := rfl

/-- One group of the reference's keystream pass. -/
def refStreamStep (rc : RoundCounts) (key g : List Byte) (q : List Byte × BitVec 128) : List Byte × BitVec 128 :=
  (q.1 ++ refCipher g (refSqueeze (refPermute key rc.sivKs (refDomain 0xD0 q.2))), refPermute key rc.sivKs (refDomain 0xD0 q.2))

theorem refSivStream_eq_overGroups (rc : RoundCounts) (key nonce2 data : List Byte) :
    refSivStream rc key nonce2 data = (overGroups (refStreamStep rc key) data ([], refSetup rc key nonce2 0xB0)).1 := rfl

/-! ### One operation on the register -/

theorem stateBits_addDomain (d : Byte) (e : Engine) : stateBits (addDomain d e).s = refDomain d (stateBits e.s) := by
  apply BitVec.eq_of_getLsbD_eq
  intro i hi
  simp only [addDomain_s, refDomain, stateBits, BitVec.getLsbD_append, BitVec.getLsbD_xor, BitVec.getLsbD_shiftLeft,
    BitVec.getLsbD_setWidth]
  grind

theorem stateBits_absorbWord (w : Word) (e : Engine) : stateBits (absorbWord w e).s = refAbsorb w (stateBits e.s) := by
  apply BitVec.eq_of_getLsbD_eq
  intro i hi
  simp only [absorbWord_s, refAbsorb, stateBits, BitVec.getLsbD_append, BitVec.getLsbD_xor, BitVec.getLsbD_shiftLeft,
    BitVec.getLsbD_setWidth]
  grind

theorem squeezeWord_eq_refSqueeze (e : Engine) : squeezeWord e = refSqueeze (stateBits e.s) :=
  (congrArg Quad.w2 (bitsState_stateBits e.s)).symm

/-! ### An engine and a register in step -/

/-- The engine holds the schedule of a key string. -/
structure HoldsKey (key : List Byte) (e : Engine) : Prop where
  k : e.k = keySchedule key
  kw : e.kw = key.length / 4

theorem holdsKey_loadKey (key : List Byte) (e : Engine) : HoldsKey key (loadKey key e) := ⟨rfl, rfl⟩

/-- The engine holds the schedule of a key string, and its state is the register `b`. -/
structure InStep (key : List Byte) (e : Engine) (b : BitVec 128) : Prop extends HoldsKey key e where
  state : stateBits e.s = b

section Operations

variable {key : List Byte} {e : Engine} {b : BitVec 128}

theorem InStep.addDomain (h : InStep key e b) (d : Byte) : InStep key (addDomain d e) (refDomain d b) :=
  ⟨⟨h.k, h.kw⟩, by rw [stateBits_addDomain, h.state]⟩

theorem InStep.absorbWord (h : InStep key e b) (w : Word) : InStep key (absorbWord w e) (refAbsorb w b) :=
  ⟨⟨h.k, h.kw⟩, by rw [stateBits_absorbWord, h.state]⟩

theorem InStep.enterPhase (h : InStep key e b) (p : Phase) : InStep key (enterPhase p e) b := ⟨⟨h.k, h.kw⟩, h.state⟩

/-- The tag registers are not read. -/
theorem InStep.withTag (h : InStep key e b) (t : TagRegs) : InStep key { e with t := t } b := ⟨⟨h.k, h.kw⟩, h.state⟩

theorem HoldsKey.enterPhase (h : HoldsKey key e) (p : Phase) : HoldsKey key (Machine.enterPhase p e) := ⟨h.k, h.kw⟩

theorem InStep.squeezeWord (h : InStep key e b) : squeezeWord e = refSqueeze b := by rw [squeezeWord_eq_refSqueeze, h.state]

/-- The same keystream word enciphers a group, behind the same output. -/
theorem InStep.append_cryptGroup (h : InStep key e b) {p q g : List Byte} (hpq : p = q) (h4 : g.length ≤ 4) :
    p ++ cryptGroup (Machine.squeezeWord e) g = q ++ refCipher g (refSqueeze b) := by
  rw [hpq, h.squeezeWord, refCipher_eq_cryptGroup _ h4]

variable (hlen : key.length = 16 ∨ key.length = 24 ∨ key.length = 32)

include hlen

/-- R129: the key bits are taken from the key string. -/
theorem InStep.runPermute (h : InStep key e b) (rounds : Nat) : InStep key (runPermute rounds e) (refPermute key rounds b) := by
  refine ⟨⟨h.k, h.kw⟩, ?_⟩
  rw [runPermute_s, h.k, h.kw, ← serialSteps_eq_permute, serialSteps_eq_refPermute hlen, h.state]

theorem InStep.permuteDomain (h : InStep key e b) (d : Byte) (rounds : Nat) :
    InStep key (Machine.runPermute rounds (Machine.addDomain d e)) (refPermute key rounds (refDomain d b)) :=
  (h.addDomain d).runPermute hlen rounds

/-! ### Setup, absorb and tag (R154 to R158) -/

theorem inStep_setup (h : HoldsKey key e) (rc : RoundCounts) {nonce : List Byte} (h12 : nonce.length = 12) (d : Byte) :
    InStep key (setup rc nonce d e) (refSetup rc key nonce d) := by
  have hinit : InStep key (initState e) 0 := ⟨⟨h.k, h.kw⟩, (by decide : stateBits Quad.zero = 0)⟩
  have hword {e : Engine} {b : BitVec 128} (h : InStep key e b) (i : Nat) (hi : i < 3) :
      InStep key (setupNonceWord rc d (le32 nonce (4 * i)) e)
        (refAbsorb (refWord (refGroup nonce i)) (refPermute key rc.nonce (refDomain d b))) := by
    rw [refWord_refGroup (by omega)]
    exact (h.permuteDomain hlen d rc.nonce).absorbWord _
  exact hword (hword (hword (hinit.runPermute hlen rc.init) 0 (by decide)) 1 (by decide)) 2 (by decide)

theorem InStep.afterGroup (h : InStep key e b) (d : Byte) (rounds : Nat) {g : List Byte} (h4 : g.length ≤ 4) :
    InStep key (afterGroup d rounds g e) (refAbsorbStep key d rounds g b) := by
  rw [refAbsorbStep, refSeparator_eq h4, refWord_eq_lepart h4]
  exact ((h.permuteDomain hlen d rounds).absorbWord _).addDomain _

theorem InStep.absorb (h : InStep key e b) (d : Byte) (rounds : Nat) (data : List Byte) :
    InStep key (absorb d rounds data e) (refAbsorbData key d rounds data b) := by
  rw [absorb_eq_overGroups, refAbsorbData_eq_overGroups]
  exact overGroups_rel data (fun g e b h4 hstep => InStep.afterGroup hlen hstep d rounds h4) h

theorem InStep.tagBytes_generateTag (h : InStep key e b) (rc : RoundCounts) : tagBytes (generateTag rc e) = refTag rc key b := by
  have h1 := h.permuteDomain hlen domFinal rc.tag1
  have h2 := (h1.withTag ⟨Machine.squeezeWord (Machine.runPermute rc.tag1 (Machine.addDomain domFinal e)), e.t.t1⟩).permuteDomain
    hlen domFinal rc.tag2
  exact congrArg₂ (fun a b => bytes32 a ++ bytes32 b) h1.squeezeWord h2.squeezeWord

/-! ### The AEAD (R180) -/

/-- The outputs so far agree, and engine and register are in step. -/
structure OutputInStep (key : List Byte) (p : List Byte × Engine) (q : List Byte × BitVec 128) : Prop where
  out : p.1 = q.1
  inStep : InStep key p.2 q.2

theorem OutputInStep.encryptStep {p : List Byte × Engine} {q : List Byte × BitVec 128} (h : OutputInStep key p q) (rc : RoundCounts)
    {g : List Byte} (h4 : g.length ≤ 4) : OutputInStep key (encryptStep rc g p) (refMessageStep rc key g q) where
  out := (h.inStep.permuteDomain hlen domMsg rc.msg).append_cryptGroup h.out h4
  inStep := h.inStep.afterGroup hlen domMsg rc.msg h4

theorem InStep.encryptGroups (h : InStep key e b) (rc : RoundCounts) (pt : List Byte) :
    OutputInStep key (encryptGroups rc pt e) (refMessage rc key pt b) := by
  rw [encryptGroups_eq_overGroups, refMessage_eq_overGroups]
  exact overGroups_rel pt (fun g p q h4 hstep => OutputInStep.encryptStep hlen hstep rc h4) ⟨rfl, h⟩

theorem inStep_aeadStart (rc : RoundCounts) {nonce : List Byte} (h12 : nonce.length = 12) (ad : List Byte) (e : Engine) :
    InStep key (aeadStart rc key nonce ad e) (refAbsorbData key 0x30 rc.ad ad (refSetup rc key nonce 0x10)) :=
  (((inStep_setup hlen (holdsKey_loadKey key _) rc h12 domNonce).enterPhase .absorbAd).absorb hlen domAd rc.ad ad).enterPhase .process

theorem aeadEncrypt_fst_eq_refAead (rc : RoundCounts) {nonce : List Byte} (h12 : nonce.length = 12) (ad pt : List Byte) (e : Engine) :
    (aeadEncrypt rc key nonce ad pt e).1 = refAead rc key nonce ad pt := by
  have hmessage := (inStep_aeadStart hlen rc h12 ad e).encryptGroups hlen rc pt
  have htag := (hmessage.inStep.enterPhase .finalize).tagBytes_generateTag hlen rc
  exact congrArg₂ (· ++ ·) hmessage.out htag

/-! ### SIV (R210 to R213) -/

theorem sivTag_eq_refSivTag (h : HoldsKey key e) (rc : RoundCounts) {nonce : List Byte} (h12 : nonce.length = 12)
    (ad pt : List Byte) : sivTag rc nonce ad pt e = refSivTag rc key nonce ad pt := by
  have hsetup := inStep_setup hlen (h.enterPhase .authPass) rc h12 domSivAuth
  have hdata := (hsetup.absorb hlen domAd rc.ad ad).absorb hlen domMsg rc.sivAuth pt
  exact (hdata.enterPhase .tag).tagBytes_generateTag hlen rc

theorem OutputInStep.streamStep {p : List Byte × Engine} {q : List Byte × BitVec 128} (h : OutputInStep key p q) (rc : RoundCounts)
    {g : List Byte} (h4 : g.length ≤ 4) : OutputInStep key (streamStep rc g p) (refStreamStep rc key g q) where
  out := (h.inStep.permuteDomain hlen domSivKs rc.sivKs).append_cryptGroup h.out h4
  inStep := h.inStep.permuteDomain hlen domSivKs rc.sivKs

theorem InStep.streamGroups (h : InStep key e b) (rc : RoundCounts) (data : List Byte) :
    OutputInStep key (streamGroups rc data e) (overGroups (refStreamStep rc key) data ([], b)) := by
  rw [streamGroups_eq_overGroups]
  exact overGroups_rel data (fun g p q h4 hstep => OutputInStep.streamStep hlen hstep rc h4) ⟨rfl, h⟩

theorem sivCrypt_eq_refSivStream (h : HoldsKey key e) (rc : RoundCounts) {nonce tag : List Byte} (h12 : nonce.length = 12)
    (h8 : tag.length = 8) (data : List Byte) :
    sivCrypt rc nonce tag data e = refSivStream rc key (nonce.take 4 ++ tag) data := by
  have hnonce := nonce2Bytes_sivRekey (nonce := nonce) (by omega) h8 e
  have hrekey : HoldsKey key (sivRekey nonce tag e) := ⟨h.k, h.kw⟩
  have hsetup := inStep_setup hlen hrekey rc (nonce := nonce.take 4 ++ tag) (by simp [h12, h8]) domSivStream
  rw [sivCrypt, sivStream, hnonce, refSivStream_eq_overGroups]
  exact ((hsetup.enterPhase .streamPass).streamGroups hlen rc data).out

theorem sivEncrypt_fst_eq_refSiv (rc : RoundCounts) {nonce : List Byte} (h12 : nonce.length = 12) (ad pt : List Byte) (e : Engine) :
    (sivEncrypt rc key nonce ad pt e).1 = refSiv rc key nonce ad pt := by
  have hkey := holdsKey_loadKey key e
  rw [sivEncrypt_fst]
  dsimp only
  rw [sivCrypt_eq_refSivStream hlen hkey rc h12 (length_sivTag rc nonce ad pt _), sivTag_eq_refSivTag hlen hkey rc h12]
  rfl

end Operations

/-- Settles O19: setup, associated data, message and tag, each in step with the reference. -/
theorem aeadEncryptIsBitSerialSpec : Obligations.AeadEncryptIsBitSerialSpec := by
  unfold Obligations.AeadEncryptIsBitSerialSpec
  exact fun rc key nonce ad pt e hlen h12 => aeadEncrypt_fst_eq_refAead hlen rc h12 ad pt e

/-- Settles O20: the tag of pass 1, then pass 2 under the nonce derived from it. -/
theorem sivEncryptIsBitSerialSpec : Obligations.SivEncryptIsBitSerialSpec := by
  unfold Obligations.SivEncryptIsBitSerialSpec
  exact fun rc key nonce ad pt e hlen h12 => sivEncrypt_fst_eq_refSiv hlen rc h12 ad pt e

end Sys2Proof.BitSerial

/-! ## The Host's port and the turns (10_state.md section 3, 20_memory.md, 70_reset_and_hazards.md section 1)

A move that is not `WAIT` is the Host's turn, whatever the Core does; so each statement is what one move does, read off the schedule. -/

namespace Sys2Proof.HostPort

open Sys2Proof.Machine Sys2Proof.Claims Sys2Proof.Encoding Sys2Proof.ModeCommands Sys2Proof.Exceptions Sys2Proof.CommandFrames

/-! ### Whose turn it is (log 4) -/

theorem step_of_schedule {s : State} {m : Move} {rest : List Move} (hsched : s.schedule = m :: rest) (hm : m ≠ .wait) :
    step s = hostMove m { s with schedule := rest } := by
  have hturn : coresTurn s = false := by
    unfold coresTurn
    rw [hsched]
    cases m with
    | wait => exact absurd rfl hm
    | regWrite | regRead | memWrite | memRead | reset => rfl
  rw [step, hturn, if_neg Bool.false_ne_true, hostTurn, hsched]

theorem step_of_idle {s : State} (hbusy : s.busy = false) (hsched : s.schedule = []) : step s = .next s := by
  have hturn : coresTurn s = true := by rw [coresTurn, hsched]
  rw [step, if_pos hturn, coreTurn, hbusy, if_neg Bool.false_ne_true]

/-- Settles O6. -/
theorem stepRunsDecodedCommand : Obligations.StepRunsDecodedCommand := by
  unfold Obligations.StepRunsDecodedCommand
  exact ⟨fun s i => step_of_decode_ok, fun s => step_of_idle⟩

theorem decode_of_decodeTableWord {nbits w : Nat} {i : Instr} (h : decodeTableWord nbits w = some i) :
    decode (commandWord nbits w) = .ok i := by
  unfold decodeTableWord at h
  split at h
  next hdecode => cases h; exact hdecode
  next => cases h

/-- Settles O7: the word stands in `CMD` of a busy Core on which the Host waits. -/
theorem fetchedWordRunsNext : Obligations.FetchedWordRunsNext := by
  unfold Obligations.FetchedWordRunsNext
  exact fun s w i h => step_of_decode_ok (s := s.withFetchWord 32 w) rfl rfl (decode_of_decodeTableWord h)

/-! ### Reset (R45, R340 to R342) -/

theorem statusWord_resetWith (c : Config) : statusWord (State.resetWith c) = 0 := by
  have hflags : statusWord (State.resetWith c) = statusWord State.reset := rfl
  rw [hflags]
  decide

/-- Settles O54, register by register. -/
theorem resetValues : Obligations.ResetValues := by
  unfold Obligations.ResetValues
  intro c
  exact ⟨rfl, rfl, rfl, rfl, rfl, rfl, rfl, fun i hi => tailZero_zero i hi (Nat.zero_le i), rfl, rfl, rfl,
    statusWord_resetWith c, rfl, rfl, rfl, rfl, fun _ => rfl⟩

/-- Settles O55: the reset event is the Host's turn, busy or not. -/
theorem resetEventResult : Obligations.ResetEventResult := by
  unfold Obligations.ResetEventResult
  exact fun s rest hsched => step_of_schedule hsched nofun

/-! ### `STATUS` (R31, R300) -/

/-- Three flags and a 4-bit code are read back where R31 puts them, and the bits between and above are 0. -/
theorem flags_layout : ∀ (busy done active : Bool) (code : BitVec 4),
    let w := flagAt busy 0 ||| flagAt done 1 ||| flagAt active 2 ||| code.setWidth 32 <<< 8
    (w.getLsbD 0 = busy ∧ w.getLsbD 1 = done ∧ w.getLsbD 2 = active) ∧ w.extractLsb' 3 5 = 0 ∧ w.extractLsb' 8 4 = code ∧
      w.extractLsb' 12 20 = 0 := by decide

theorem errCode_toNat (e : Err) : (errCode e).toNat = statedErrCode e := by cases e <;> rfl

theorem statedErrCode_le (e : Err) : statedErrCode e ≤ 5 := by cases e <;> decide

/-- Settles O56: the word is three flags and the code of the error. -/
theorem statusWordLayout : Obligations.StatusWordLayout := by
  unfold Obligations.StatusWordLayout
  intro s
  obtain ⟨hflags, hlow, hcode, hhigh⟩ := flags_layout s.busy s.done s.hashActive (errCode s.err)
  have herr : ((statusWord s).extractLsb' 8 4).toNat = statedErrCode s.err := (congrArg BitVec.toNat hcode).trans (errCode_toNat _)
  exact ⟨hflags, hlow, herr, hhigh, herr.trans_le (statedErrCode_le _)⟩

/-! ### Register accesses (R30, R34, R71) -/

theorem registerShape_word_iff (offset : Nat) : registerShape .word offset = true ↔ offset % 4 = 0 := by
  simp [registerShape]

theorem registerShape_eq_false {w : AccessWidth} {offset : Nat} (h : w ≠ .word ∨ offset % 4 ≠ 0) : registerShape w offset = false := by
  cases w <;> simp_all [registerShape]

theorem step_of_regWrite {s : State} {offset : Nat} {v : Word} {rest : List Move}
    (hsched : s.schedule = .regWrite .word offset v :: rest) (hoffset : offset % 4 = 0) :
    step s = .next (regWrite offset v { s with schedule := rest }) := by
  rw [step_of_schedule hsched nofun, hostMove, hostRegWrite, if_pos ((registerShape_word_iff offset).2 hoffset)]

theorem step_of_regRead {s : State} {offset : Nat} {rest : List Move} (hsched : s.schedule = .regRead .word offset :: rest)
    (hoffset : offset % 4 = 0) :
    step s = .next { s with schedule := rest, replies := s.replies ++ [.reg offset (regRead offset s)] } := by
  rw [step_of_schedule hsched nofun, hostMove, hostRegRead, if_pos ((registerShape_word_iff offset).2 hoffset)]
  rfl

theorem regWrite_of_busy {s : State} (hbusy : s.busy = true) (offset : Nat) (v : Word) : regWrite offset v s = s := by
  rw [regWrite, if_pos hbusy]

theorem regWriteIdle_operand {offset : Nat} (hop : offset ∈ [0x08, 0x0C, 0x10, 0x14, 0x18, 0x1C, 0x20]) (v : Word) (s : State) :
    regWriteIdle offset v s = { s with ops := (regWriteIdle offset v s).ops } ∧
      ∀ o, regRead o (regWriteIdle offset v s) = if o = offset then v else regRead o s := by
  fin_cases hop
  all_goals
    refine ⟨rfl, fun o => ?_⟩
    simp only [regWriteIdle, regRead]
    split <;> simp_all [statusWord]

theorem regWriteIdle_ignored {offset : Nat} (hnone : offset ∉ [0x00, 0x08, 0x0C, 0x10, 0x14, 0x18, 0x1C, 0x20]) (v : Word) (s : State) :
    regWriteIdle offset v s = s := by
  unfold regWriteIdle
  split
  case h_9 => rfl
  all_goals exact absurd (by decide) hnone

theorem regWriteIdle_schedule (offset : Nat) (v : Word) (s : State) : (regWriteIdle offset v s).schedule = s.schedule := by
  unfold regWriteIdle
  split <;> rfl

theorem regWrite_schedule (offset : Nat) (v : Word) (s : State) : (regWrite offset v s).schedule = s.schedule := by
  unfold regWrite
  split
  · rfl
  · exact regWriteIdle_schedule offset v s

theorem regWrite_of_idle {s : State} (hbusy : s.busy = false) (offset : Nat) (v : Word) :
    regWrite offset v s = regWriteIdle offset v s := by
  rw [regWrite, if_neg (by simp [hbusy])]

theorem regWrite_operand {s : State} (hbusy : s.busy = false) {offset : Nat}
    (hop : offset ∈ [0x08, 0x0C, 0x10, 0x14, 0x18, 0x1C, 0x20]) (v : Word) :
    regWrite offset v s = { s with ops := (regWrite offset v s).ops } ∧
      ∀ o, regRead o (regWrite offset v s) = if o = offset then v else regRead o s := by
  rw [regWrite_of_idle hbusy]
  exact regWriteIdle_operand hop v s

/-- Settles O57: a busy Core ignores the write; an idle one does what the offset says. -/
theorem hostRegisterWrites : Obligations.HostRegisterWrites := by
  unfold Obligations.HostRegisterWrites
  intro s offset v rest hsched hoffset
  refine ⟨_, step_of_regWrite hsched hoffset, regWrite_schedule _ _ _, fun hbusy => ?_, fun hbusy h0 => ?_, fun hbusy hop => ?_,
    fun hbusy hnone => ?_⟩
  · exact regWrite_of_busy (s := { s with schedule := rest }) hbusy offset v
  · subst h0
    exact regWrite_of_idle (s := { s with schedule := rest }) hbusy 0 v
  · exact regWrite_operand (s := { s with schedule := rest }) hbusy hop v
  · exact (regWrite_of_idle (s := { s with schedule := rest }) hbusy offset v).trans (regWriteIdle_ignored hnone v _)

/-- R34: past the last register of the map every offset reads 0. -/
theorem regRead_of_ge {offset : Nat} (h : 0x28 ≤ offset) (s : State) : regRead offset s = 0 := by
  unfold regRead
  split
  case h_11 => rfl
  all_goals exact absurd h (by decide)

/-- Settles O59. -/
theorem hostRegisterReads : Obligations.HostRegisterReads := by
  unfold Obligations.HostRegisterReads
  intro s offset rest hsched hoffset
  refine ⟨regRead offset s, step_of_regRead hsched hoffset, ?_, ?_, ?_, ?_, ?_, ?_, ?_, ?_, ?_, ?_, fun h => regRead_of_ge h s⟩
  all_goals
    rintro rfl
    rfl

/-! ### Accesses to MEM (R60, R66, R67, R76) -/

theorem hostMemWrite_of_fits {s : State} {a : Nat} {bytes : List Byte} (hbusy : s.busy = false) (hfits : Fits s a bytes.length) :
    hostMemWrite a bytes s = .next (writeBack s a bytes) := by
  rw [hostMemWrite, if_neg (by simp [hbusy]), if_pos ((regionValid_iff _ _).2 hfits)]

theorem hostMemRead_of_fits {s : State} {a n : Nat} (hbusy : s.busy = false) (hfits : Fits s a n) :
    hostMemRead a n s = .next (giveReply (.mem a (memRead s.mem a n)) s) := by
  rw [hostMemRead, if_neg (by simp [hbusy]), if_pos ((regionValid_iff _ _).2 hfits)]
  rfl

/-- Settles O58: the second move reads what the first has put there. -/
theorem hostMemoryReadBack : Obligations.HostMemoryReadBack := by
  unfold Obligations.HostMemoryReadBack
  intro s a bytes rest hbusy hsched hfits
  have hwrite := (step_of_schedule hsched nofun).trans (hostMemWrite_of_fits hbusy hfits)
  have hread := (step_of_schedule (s := writeBack { s with schedule := .memRead a bytes.length :: rest } a bytes) rfl nofun).trans
    (hostMemRead_of_fits hbusy hfits)
  refine ⟨_, _, hwrite, hread, ?_, fun x hx => memByte_memWrite_outside s.mem bytes hx, rfl⟩
  exact congrArg (fun read => s.replies ++ [.mem a read]) (memRead_memWrite s.mem a bytes)

theorem hostMemWrite_of_not_fits {s : State} {a : Nat} {bytes : List Byte} (hbusy : s.busy = false)
    (hfits : ¬Fits s a bytes.length) : hostMemWrite a bytes s = .fault .noSuchAddress := by
  rw [hostMemWrite, if_neg (by simp [hbusy]), if_neg ((regionValid_iff _ _).not.2 hfits)]

theorem hostMemRead_of_not_fits {s : State} {a n : Nat} (hbusy : s.busy = false) (hfits : ¬Fits s a n) :
    hostMemRead a n s = .fault .noSuchAddress := by
  rw [hostMemRead, if_neg (by simp [hbusy]), if_neg ((regionValid_iff _ _).not.2 hfits)]

/-- Settles O60: the shape of a register access, `BUSY`, and the region are looked at before anything is done. -/
theorem hostAccessesThatStop : Obligations.HostAccessesThatStop := by
  unfold Obligations.HostAccessesThatStop
  refine ⟨fun s w offset v rest hshape hsched => ?_, fun s a n bytes rest hbusy hsched => ?_,
    fun s a n bytes rest hbusy hsched => ?_⟩
  · have hstop := registerShape_eq_false hshape
    obtain hsched | hsched := hsched
    · rw [step_of_schedule hsched nofun, hostMove, hostRegWrite, hstop, if_neg Bool.false_ne_true]
    · rw [step_of_schedule hsched nofun, hostMove, hostRegRead, hstop, if_neg Bool.false_ne_true]
  · obtain hsched | hsched := hsched
    · rw [step_of_schedule hsched nofun, hostMove, hostMemWrite, if_pos hbusy]
    · rw [step_of_schedule hsched nofun, hostMove, hostMemRead, if_pos hbusy]
  · obtain ⟨hsched, hfits⟩ | ⟨hsched, hfits⟩ := hsched
    · exact (step_of_schedule hsched nofun).trans (hostMemWrite_of_not_fits hbusy hfits)
    · exact (step_of_schedule hsched nofun).trans (hostMemRead_of_not_fits hbusy hfits)

end Sys2Proof.HostPort
